-- ==== Sys2Proof/Word.lean ====
section
/-! DEFINITION. The words of the T896: bytes of frames and telegrams, and ticks of the Run Clock. -/

namespace Sys2Proof

/-- A character of the host link or of a field link. -/
abbrev Byte := BitVec 8

/-- A Run Clock value, or an interval of it: 10 ms units modulo 2^32 (00_scope.md 3.2, R131). -/
abbrev Tick := BitVec 32

/-- The largest unsigned 32-bit count, 4,294,967,295 (00_scope.md 3.4). -/
def maxCount : Nat := 4294967295

end Sys2Proof
end

