-- ==== Sys2Proof/Syntax.lean ====
section
/-! DEFINITION. The commands of the T896: one constructor for each row of spec/opcode_table.json.
A host request carries the payload bytes of its frame (R183, R191; log 1).
An event carries the line, station, link or trigger it concerns, and what arrives with it. -/

namespace Sys2Proof

/-- What the two wires FnA and FnB of a field link carry (R194): a level each, or the levels of a character's eight data bits each. -/
structure Pair (α : Type) where
  fnA : α
  fnB : α
  deriving DecidableEq, Repr

/-- What happens to a reply character on the pair: a level that may be its start bit begins it, or its stop bit ends it and the levels of its
data bits are known (R149). -/
inductive CharEdge where
  | begins (level : Pair Bool)
  | ends (character : Pair Byte)
  deriving DecidableEq, Repr

/-- A level on the pair of a link, as its idle check sees it (R148). -/
structure LinkLevel where
  link  : Fin 4
  level : Pair Bool
  deriving DecidableEq, Repr

inductive Instr where
  -- Chapter 1
  | defineLine (payload : List Byte)
  | undefineLine (payload : List Byte)
  | enrollStation (payload : List Byte)
  | removeStation (payload : List Byte)
  | bypassStation (payload : List Byte)
  | readStation (payload : List Byte)
  -- Chapter 2
  | mapCause (payload : List Byte)
  | unmapCause (payload : List Byte)
  | readMap (payload : List Byte)
  -- Chapter 3
  | declareLineMode (payload : List Byte)
  | readLineStatus (payload : List Byte)
  -- Chapter 4
  | setRate (payload : List Byte)
  -- Chapter 6
  | closePeriod (payload : List Byte)
  | listClosed (payload : List Byte)
  | readClosed (payload : List Byte)
  | releaseClosed (payload : List Byte)
  | readOpen (payload : List Byte)
  -- Chapter 7
  | loadClock (payload : List Byte)
  | stepClock (payload : List Byte)
  | readClock (payload : List Byte)
  | armTrigger (payload : List Byte)
  | disarmTrigger (payload : List Byte)
  | readTriggers (payload : List Byte)
  -- Chapter 8
  | setLink (payload : List Byte)
  | readLinkStats (payload : List Byte)
  -- Chapter 9
  | setRehearse (payload : List Byte)
  | injectReport (payload : List Byte)
  -- Chapter 10
  | takeNotices (payload : List Byte)
  | setNoticeMask (payload : List Byte)
  | setWatermark (payload : List Byte)
  | readAttention (payload : List Byte)
  | clearAttention (payload : List Byte)
  | setAttention (payload : List Byte)
  -- Chapter 11
  | commit (payload : List Byte)
  | suspend (payload : List Byte)
  | lineReset (payload : List Byte)
  | identify (payload : List Byte)
  | restart (payload : List Byte)
  -- Host link and pins
  | hostByteReceived (b : Byte)
  | hostCharacterGapExpiry
  | responseSent
  | resetPin
  | startUpEnd (rate1 rate0 : Bool)
  -- Clocks and timers
  | runClockTick
  | plantSecondAdvance
  | plantClockLimit
  | triggerExpiry (trigger : Fin 8)
  | ageLimit (line : Fin 8)
  | promotionExpiry (line : Fin 8)
  | confirmationExpiry (line : Fin 8)
  | longStopExpiry (line : Fin 8)
  | durationCapExpiry (line : Fin 8)
  | allowanceExpiry (line : Fin 8)
  | windowExpiry (line : Fin 8)
  | gapExpiry (station : Nat)
  -- Field links
  | roundStart (link : Fin 4)
  | idleCheckExpiry (link : Fin 4)
  | skippedBusy (link : LinkLevel)
  | pollSent (link : Fin 4)
  | replyWaitExpiry (link : Fin 4)
  | replyReceived (link : Fin 4) (last : Pair Byte)
  | replyGapExpiry (link : Fin 4)
  | resetRelease
  | replyCharacterReceived (link : Fin 4) (edge : CharEdge)
  deriving DecidableEq, Repr

end Sys2Proof
end

