-- ==== Sys2Proof/Decode.lean ====
section
/-! DEFINITION. The commands that opcode_table.json spells in bits: no row of the table gives bits. -/

namespace Sys2Proof

/-- The command that a word spells by the table's bits. No row of opcode_table.json has a field or a fixed bit,
so no word spells a command. -/
def decodeTableWord (_nbits _w : Nat) : Option Instr := none

end Sys2Proof
end

