-- ==== Sys2Proof/Config.lean ====
section
/-! DEFINITION. What the manual leaves open: the free values of the model. -/

namespace Sys2Proof

/-- A value the manual does not state, the n-th drawn (log 6, log 7).
It has no body: nothing can be proved about it, and a claim that holds of the model holds whatever it is. -/
opaque Config.freeWord : Nat → BitVec 32

end Sys2Proof
end

