-- ==== Sys2Proof/Machine/State.lean ====
section
/-! DEFINITION. The state of the T896, block by block, as plain data, and the state after reset.
INVENTORY.md lists each field with its rule; the groups below follow the manual's chapters. -/

namespace Sys2Proof.Machine

/-! ## Chapter 2: causes and roots -/

/-- Cause classes (R42, R45, R100). -/
inductive CauseClass where
  | equipment | material | operator | quality | utility | logistics | overrun | planned | unassigned
  deriving DecidableEq, Repr

/-- Code kinds of the Cause Map (R45). -/
inductive CodeKind where
  | fault | operator
  deriving DecidableEq, Repr

/-- A station and a cause to which time is attributed, with the cause's class (R38).
The station is 0–95, or pseudo-station 255. -/
structure Root where
  station : Nat
  cause   : Nat
  cls     : CauseClass
  deriving DecidableEq, Repr

/-- One entry of the Cause Map (R45). The station key is 0–95, or 255 for ANY (R191), so that keys are ordered as R45 orders them. -/
structure CauseEntry where
  station : Nat
  kind    : CodeKind
  code    : Nat
  cause   : Nat
  cls     : CauseClass
  deriving DecidableEq, Repr

/-! ## Chapter 7: plant time -/

/-- Plant time written into a record: seconds and hundredths (R133). -/
structure PlantTime where
  seconds    : Nat
  hundredths : Nat
  deriving DecidableEq, Repr

/-- What the Plant Clock holds while it is set (R132). -/
structure PlantClock where
  seconds  : Nat
  boundary : Tick
  deriving DecidableEq, Repr

inductive TriggerState where
  | disarmed | armed | spent
  deriving DecidableEq, Repr

/-- A Period Trigger (R138). Bit n of the line set stands for line n (R191). -/
structure Trigger where
  state     : TriggerState
  time      : Nat
  interval  : Nat
  lines     : BitVec 8
  lastFired : Option PlantTime
  skipped   : Nat
  deriving DecidableEq, Repr

/-! ## Chapter 5: the account of a period -/

/-- The eight time classes (R92), in the order of the code table (section 11.6). -/
inductive TimeClass where
  | notScheduled | planned | changeover | overrun | unobserved | producing | shortStop | stopped
  deriving DecidableEq, Repr

/-- The eight time-class totals (R92). -/
structure ClassTotals where
  notScheduled : Tick
  planned      : Tick
  changeover   : Tick
  overrun      : Tick
  unobserved   : Tick
  producing    : Tick
  shortStop    : Tick
  stopped      : Tick
  deriving DecidableEq, Repr

/-- A product run (R65). -/
structure ProductRun where
  product        : Nat
  start          : Tick
  constraintGood : Nat
  finishedGood   : Nat
  deriving DecidableEq, Repr

/-- A station's entry in the station section (R106). -/
structure StationEntry where
  station         : Nat
  infeed          : Nat
  outfeed         : Nat
  rejects         : Nat
  discontinuities : Nat
  halted          : Tick
  unseen          : Tick
  deriving DecidableEq, Repr

/-- A bucket (R100). -/
structure Bucket where
  station    : Nat
  cause      : Nat
  cls        : CauseClass
  stoppages  : Nat
  stopTicks  : Tick
  microStops : Nat
  microTicks : Tick
  deriving DecidableEq, Repr

/-- A period's content (R90, R92, R65, R106, R100): the keyed buckets in order of first use, and the Other bucket, which stands last (R103). -/
structure Period where
  line             : Fin 8
  number           : BitVec 32
  start            : Tick
  startPlant       : Option PlantTime
  rehearsal        : Bool
  inCandidate      : Bool
  inStoppage       : Bool
  otherUsed        : Bool
  saturated        : Bool
  classes          : ClassTotals
  carriedShort     : Tick
  slowTicks        : Tick
  shortfall        : Nat
  completedWindows : Nat
  stoppagesOpened  : Nat
  microStops       : Nat
  constraintGood   : Nat
  finishedGood     : Nat
  runs             : List ProductRun
  stations         : List StationEntry
  buckets          : List Bucket
  other            : Option Bucket
  deriving DecidableEq, Repr

/-! ## Chapter 6: closed periods -/

/-- Close reasons (R111), with SNAPSHOT for snapshots. -/
inductive CloseReason where
  | trigger | request | productLimit | ageLimit | rehearseStart | rehearseEnd | lineReset | suspend | snapshot
  deriving DecidableEq, Repr

/-- A closed period record or a snapshot (R113). The carried-out stoppage flag is set when `outStoppage` is present, and DISPLACED when `displaced` is present. -/
structure ClosedRecord where
  period        : Period
  closeTick     : Tick
  closePlant    : Option PlantTime
  reason        : CloseReason
  outCandidate  : Bool
  outStoppage   : Option (BitVec 32)
  windowRunning : Bool
  displaced     : Option (BitVec 32)
  deriving DecidableEq, Repr

/-! ## Chapters 2 to 4: a line -/

/-- A line definition (R1). The three times are held in ticks, the window length in seconds. -/
structure LineDef where
  initialProduct : Nat
  promotion      : Nat
  longStop       : Nat
  confirmation   : Nat
  windowSeconds  : Nat
  declarePct     : Nat
  clearPct       : Nat
  declareWindows : Nat
  clearWindows   : Nat
  nominalRate    : Nat
  deriving DecidableEq, Repr

/-- The line mode with the fields present in it (R51): allowances are in ticks, 0 for unlimited. -/
inductive Mode where
  | scheduled
  | notScheduled
  | planned (cause allowance : Nat)
  | changeover (cause target allowance : Nat)
  deriving DecidableEq, Repr

/-- A candidate stop (R24). -/
structure Candidate where
  start       : Tick
  chargeStart : Tick
  carriedIn   : Bool
  root        : Root
  promotion   : Tick
  deriving DecidableEq, Repr

/-- An open stoppage (R28), but for the two instants present in RESTARTING only. -/
structure Stoppage where
  number       : BitVec 32
  start        : Tick
  startPlant   : Option PlantTime
  carriedIn    : Bool
  initial      : Root
  root         : Root
  segmentStart : Tick
  segments     : Nat
  longStop     : Option Tick
  notified     : Bool
  cap          : Option Tick
  capped       : Bool
  deriving DecidableEq, Repr

/-- The line condition (R19, R20, R52) with the record that each condition holds: a planned segment's cause and start (R51; the OVERRUN segment's cause is 248), the candidate stop, or the open stoppage with the restart instant and confirmation expiry. -/
inductive Condition where
  | notScheduled
  | planned (cause : Nat) (start : Tick)
  | changeover (cause : Nat) (start : Tick)
  | overrun (start : Tick)
  | unobserved
  | producing
  | candidate (c : Candidate)
  | stopped (st : Stoppage)
  | restarting (st : Stoppage) (restart confirm : Tick)
  deriving DecidableEq, Repr

/-- A running rate window (R80). -/
structure Window where
  start      : Tick
  expiry     : Tick
  expected   : Nat
  declarePct : Nat
  clearPct   : Nat
  actual     : Nat
  deriving DecidableEq, Repr

/-- The rate state of a line (R80). The last window's actual and expected are present together. -/
structure RateState where
  slow      : Bool
  lowRun    : Nat
  highRun   : Nat
  window    : Option Window
  slowStart : Option Tick
  last      : Option (Nat × Nat)
  deriving DecidableEq, Repr

/-- The rate state at DEFINE_LINE, at entry to MONITORING and after the resets of R87 (R80). -/
def RateState.initial : RateState :=
  { slow := false, lowRun := 0, highRun := 0, window := none, slowStart := none, last := none }

/-- What a line holds in MONITORING only: its condition with the records in it, the last condition change instant (R19), the allowance expiry (R51), the rate state (R80), the open period (R89) and its age limit (R118). -/
structure Live where
  condition       : Condition
  lastChange      : Tick
  allowanceExpiry : Option Tick
  rate            : RateState
  period          : Period
  ageLimit        : Tick
  deriving DecidableEq, Repr

/-- A defined line: definition (R1), rehearsal setting (R160), mode and current product (R51), and the live state in MONITORING. -/
structure Line where
  defn           : LineDef
  rehearsal      : Bool
  mode           : Mode
  currentProduct : Nat
  live           : Option Live
  deriving DecidableEq, Repr

/-! ## Chapter 1: station records -/

/-- Station link state (R7). -/
inductive StationLink where
  | unknown | reporting | silent
  deriving DecidableEq, Repr

/-- Reported states (R9), in the order of the code table. -/
inductive ReportedState where
  | off | run | starved | blocked | fault | operatorStop | changeover
  deriving DecidableEq, Repr

/-- The three counters of a report, or the three baselines (R70): infeed, outfeed good, reject. -/
structure Counters where
  infeed  : BitVec 16
  outfeed : BitVec 16
  reject  : BitVec 16
  deriving DecidableEq, Repr

/-- A station's gap expiry and whether it has been taken (R70). -/
structure GapExpiry where
  expiry : Tick
  taken  : Bool
  deriving DecidableEq, Repr

/-- A station record (R7), with the gap expiry that R70 holds beside the baselines. -/
structure Station where
  number        : Nat
  link          : Fin 4
  address       : Nat
  line          : Fin 8
  position      : Nat
  constraint    : Bool
  finish        : Bool
  maxRate       : Nat
  bypassed      : Bool
  linkState     : StationLink
  missRun       : Nat
  goodRun       : Nat
  reported      : Option ReportedState
  faultCode     : Nat
  reasonCode    : Nat
  changeInstant : Option Tick
  lastApplied   : Option Tick
  baselines     : Option Counters
  gap           : Option GapExpiry
  accrualStart  : Option Tick
  deriving DecidableEq, Repr

/-! ## Chapter 8: field links -/

inductive BitRate where
  | b62500 | b125000 | b250000 | b500000
  deriving DecidableEq, Repr

inductive PolarityMode where
  | auto | normal | swapped
  deriving DecidableEq, Repr

inductive Polarity where
  | normal | swapped
  deriving DecidableEq, Repr

inductive LinkFault where
  | noReplies | busStuck
  deriving DecidableEq, Repr

/-- Field link state, with the fault reason present in FAULT (R145). -/
inductive LinkState where
  | idle | hunt | active
  | fault (reason : LinkFault)
  deriving DecidableEq, Repr

/-- What a poll slot is doing (R148, R149): the idle check, sending the poll, waiting for a reply, or receiving one; `inChar` while a character is on the pair. While the poll is sent the phase holds what the pair is driven with, character by character (R194); a reply's characters are held as read. -/
inductive SlotPhase where
  | idleCheck
  | sendingPoll (driven : List (Pair Byte))
  | replyWait
  | receiving (chars : List Byte) (inChar : Bool)
  deriving DecidableEq, Repr

/-- The round in progress (R145, R146): each slot names a station by number; `next` is the place of the slot in progress. -/
structure Round where
  start     : Tick
  slots     : List Nat
  next      : Nat
  validSeen : Bool
  phase     : SlotPhase
  deriving DecidableEq, Repr

/-- The seven statistics (R156). -/
structure LinkStats where
  pollsSent     : Nat
  goodReplies   : Nat
  timeouts      : Nat
  checkErrors   : Nat
  contentErrors : Nat
  busySkips     : Nat
  flips         : Nat
  deriving DecidableEq, Repr

def LinkStats.zero : LinkStats :=
  { pollsSent := 0, goodReplies := 0, timeouts := 0, checkErrors := 0, contentErrors := 0, busySkips := 0, flips := 0 }

/-- A Field Link Controller: settings (R143), live state (R145), and the instant before which the next round does not start (R147). The pace is in ticks. -/
structure Link where
  bitRate         : BitRate
  polarityMode    : PolarityMode
  pace            : Nat
  missThreshold   : Nat
  returnThreshold : Nat
  state           : LinkState
  polarity        : Polarity
  round           : Option Round
  nextRound       : Option Tick
  deadRounds      : Nat
  busyRun         : Nat
  stats           : LinkStats
  deriving DecidableEq, Repr

/-- A Field Link Controller after reset (R143, R145). -/
def Link.reset : Link :=
  { bitRate := .b250000, polarityMode := .auto, pace := 10, missThreshold := 4, returnThreshold := 2
    state := .idle, polarity := .normal, round := none, nextRound := none, deadRounds := 0, busyRun := 0
    stats := LinkStats.zero }

/-! ## Chapter 10: Journal and Attention -/

/-- Reasons of STOP_CLOSED (R169). -/
inductive StopReason where
  | restartConfirmed | modeDeclared | constraintUnseen | abandoned
  deriving DecidableEq, Repr

/-- Counters named by COUNT_DISCONTINUITY (R76). -/
inductive CounterName where
  | infeed | outfeed | reject | all
  deriving DecidableEq, Repr

/-- Reasons of COUNT_DISCONTINUITY (R76). -/
inductive DiscontinuityReason where
  | stationRestart | gapTooLong | implausible
  deriving DecidableEq, Repr

/-- The sixteen notice kinds with their kind fields (R169). -/
inductive NoticeBody where
  | stopOpened (number : BitVec 32) (start : Tick) (root : Root) (carriedIn : Bool)
  | stopReattributed (number : BitVec 32) (root : Root) (segments : Nat)
  | stopClosed (number : BitVec 32) (finish duration : Tick) (reason : StopReason) (segments : Nat)
  | longStop (number : BitVec 32) (station cause : Nat)
  | allowanceExceeded (changeover : Bool) (cause : Nat)
  | slowDeclared (actual expected : Nat)
  | slowCleared (actual expected : Nat)
  | stationSilent (station : Nat) (lastGood : Option Tick)
  | stationReporting (station : Nat) (lastGood : Tick)
  | countDiscontinuity (station : Nat) (counter : CounterName) (reason : DiscontinuityReason)
  | periodClosed (number : BitVec 32) (reason : CloseReason) (displaced : Option (BitVec 32))
  | triggerFired (trigger : Fin 8) (closed skipped : BitVec 8) (intervals : Nat) (moved : Bool)
  | linkFault (link : Fin 4) (reason : LinkFault)
  | linkCleared (link : Fin 4) (polarity : Polarity)
  | linkPolarity (link : Fin 4) (polarity : Polarity)
  | gap (count : Nat)
  deriving DecidableEq, Repr

/-- A notice record (R168). -/
structure Notice where
  sequence : BitVec 16
  line     : Option (Fin 8)
  tick     : Tick
  plant    : Option PlantTime
  body     : NoticeBody
  deriving DecidableEq, Repr

/-- The Journal (R167). Bit k of the mask stands for kind k (section 11.6). -/
structure Journal where
  queue        : List Notice
  nextSequence : BitVec 16
  gapCount     : Nat
  mask         : BitVec 16
  watermark    : Nat
  deriving DecidableEq, Repr

/-- The six attention flags, or their enables (R175). -/
structure AttentionSet where
  link   : Bool
  stop   : Bool
  period : Bool
  high   : Bool
  clock  : Bool
  notice : Bool
  deriving DecidableEq, Repr

/-- The names of the six flags, in order of priority, highest first (R175). -/
inductive AttentionFlag where
  | link | stop | period | high | clock | notice
  deriving DecidableEq, Repr

inductive NoticeMode where
  | level | first
  deriving DecidableEq, Repr

/-- The Attention Unit (R175). -/
structure Attention where
  flags   : AttentionSet
  enables : AttentionSet
  mode    : NoticeMode
  deriving DecidableEq, Repr

/-! ## Chapter 11: Host Link Controller -/

inductive PartState where
  | configuring | monitoring
  deriving DecidableEq, Repr

/-- RESET# held low, start-up after a reset, or running (R189). -/
inductive ResetPhase where
  | held | startUp | running
  deriving DecidableEq, Repr

/-- The receiver (R182, R189): `collecting bytes` holds the bytes received after the start byte. -/
inductive Receiver where
  | idle
  | hunting
  | collecting (bytes : List Byte)
  deriving DecidableEq, Repr

/-- Result codes (section 11.2), in the order of their codes 0 to 13. -/
inductive ResultCode where
  | ok | unknownKind | badLength | badValue | wrongState | notFound | duplicate | full | late | clockUnset
  | empty | notRehearsing | invalidConfig | notEmpty
  deriving DecidableEq, Repr

/-- A response being sent (R183): the response kind, the status (result and overrun bit) and the payload. Its frame is `Response.frame`. -/
structure Response where
  kind    : Byte
  result  : ResultCode
  overrun : Bool
  payload : List Byte
  deriving DecidableEq, Repr

/-- The Host Link Controller (R181–R184). -/
structure HostLink where
  receiver : Receiver
  sending  : Option Response
  overrun  : Bool
  rate1    : Bool
  rate0    : Bool
  deriving DecidableEq, Repr

/-! ## The whole part -/

/-- The state of the T896. `pending` is the queue of waiting commands, first in first out. `freeDraws` is the model's own field: how many free values have been drawn (log 6, log 7). The other fields are the manual's (INVENTORY.md). -/
structure State where
  pending       : List Instr
  resetPhase    : ResetPhase
  partState     : PartState
  host          : HostLink
  runClock      : Tick
  plant         : Option PlantClock
  triggers      : Vector Trigger 8
  lines         : Vector (Option Line) 8
  lastStoppage  : Vector (BitVec 32) 8
  periodCounter : Vector (BitVec 32) 8
  store         : Vector (List ClosedRecord) 8
  snapshot      : Option ClosedRecord
  stations      : List Station
  causeMap      : List CauseEntry
  links         : Vector Link 4
  journal       : Journal
  attention     : Attention
  freeDraws     : Nat
  deriving DecidableEq, Repr

/-- A trigger after reset (R138). -/
def Trigger.reset : Trigger :=
  { state := .disarmed, time := 0, interval := 0, lines := 0#8, lastFired := none, skipped := 0 }

/-- The Journal after reset (R167). -/
def Journal.reset : Journal :=
  { queue := [], nextSequence := 0#16, gapCount := 0, mask := 0#16, watermark := 384 }

/-- The Attention Unit after reset (R175). -/
def Attention.reset : Attention :=
  { flags := { link := false, stop := false, period := false, high := false, clock := false, notice := false }
    enables := { link := true, stop := true, period := true, high := true, clock := true, notice := true }
    mode := .level }

/-- The Host Link Controller after reset (R189); the sampled RATE levels are the model's choice until START_UP_END samples the pins (log 8). -/
def HostLink.reset : HostLink :=
  { receiver := .idle, sending := none, overrun := false, rate1 := false, rate0 := false }

/-- The T896 at the end of a reset (R189, table of section 11.4): every block at its values after reset, the Run Clock at 0, start-up in progress (log 8). -/
def State.reset : State :=
  { pending := []
    resetPhase := .startUp
    partState := .configuring
    host := HostLink.reset
    runClock := 0#32
    plant := none
    triggers := Vector.replicate 8 Trigger.reset
    lines := Vector.replicate 8 none
    lastStoppage := Vector.replicate 8 0#32
    periodCounter := Vector.replicate 8 0#32
    store := Vector.replicate 8 []
    snapshot := none
    stations := []
    causeMap := []
    links := Vector.replicate 4 Link.reset
    journal := Journal.reset
    attention := Attention.reset
    freeDraws := 0 }

/-- Why the machine stops with a fault. The manual describes no stop of the part: a refused request is answered (R183), damaged frames and telegrams are dropped or counted as misses (R182, R150). So no meaning raises a fault, and the type has no constructor; neither safe nor unsafe, since nothing stops. -/
inductive Fault where
  deriving DecidableEq, Repr

/-- Why a command has no meaning in the model. -/
inductive Refusal where
  /-- Raised by `exec` for a command the model has not reached, by its mnemonic; no arm raises it now. Safe: nothing can be proved of a run that goes through it. -/
  | notModelled (mnemonic : String)
  deriving DecidableEq, Repr

end Sys2Proof.Machine
end

