-- ==== Sys2Proof/Machine/Flags.lean ====
section
/-! DEFINITION. Flag computations: the saturation of counts (R93), the six attention flags (R175–R179) and ATTN# (R180). -/

namespace Sys2Proof.Machine

/-! ## Counts that saturate -/

/-- A count after a charge of `n`: it saturates at 4,294,967,295 (R93). -/
def satAdd (a n : Nat) : Nat := min (a + n) maxCount

/-- The charge of `n` takes the count past 4,294,967,295, which sets COUNT_SATURATED (R93). -/
def satOver (a n : Nat) : Bool := maxCount < a + n

/-! ## Attention flags -/

/-- Is the flag set (or enabled). -/
def AttentionSet.get (a : AttentionSet) : AttentionFlag → Bool
  | .link => a.link
  | .stop => a.stop
  | .period => a.period
  | .high => a.high
  | .clock => a.clock
  | .notice => a.notice

/-- The set with one flag given a value. -/
def AttentionSet.put (a : AttentionSet) (v : Bool) : AttentionFlag → AttentionSet
  | .link => { a with link := v }
  | .stop => { a with stop := v }
  | .period => { a with period := v }
  | .high => { a with high := v }
  | .clock => { a with clock := v }
  | .notice => { a with notice := v }

/-- The set a mask byte names: bit 0 LINK, 1 STOP, 2 PERIOD, 3 HIGH, 4 CLOCK, 5 NOTICE (section 11.6). -/
def AttentionSet.ofMask (m : Nat) : AttentionSet :=
  { link := m.testBit 0, stop := m.testBit 1, period := m.testBit 2
    high := m.testBit 3, clock := m.testBit 4, notice := m.testBit 5 }

/-- The mask byte of a set. -/
def AttentionSet.toMask (a : AttentionSet) : Nat :=
  a.link.toNat + 2 * a.stop.toNat + 4 * a.period.toNat + 8 * a.high.toNat + 16 * a.clock.toNat + 32 * a.notice.toNat

/-- The flags that are in `a` and not in `b`. -/
def AttentionSet.minus (a b : AttentionSet) : AttentionSet :=
  { link := a.link && !b.link, stop := a.stop && !b.stop, period := a.period && !b.period
    high := a.high && !b.high, clock := a.clock && !b.clock, notice := a.notice && !b.notice }

/-- The code of the top class: the latched flag of highest priority, or FFh for none (R178). -/
def AttentionSet.topClass (a : AttentionSet) : Nat :=
  if a.link then 0 else if a.stop then 1 else if a.period then 2
  else if a.high then 3 else if a.clock then 4 else if a.notice then 5 else 255

/-- ATTN# is asserted exactly when a latched flag has its enable set (R180). -/
def Attention.asserted (a : Attention) : Bool :=
  (a.flags.link && a.enables.link) || (a.flags.stop && a.enables.stop) || (a.flags.period && a.enables.period)
    || (a.flags.high && a.enables.high) || (a.flags.clock && a.enables.clock) || (a.flags.notice && a.enables.notice)

/-- A flag is latched: it stays set until CLEAR_ATTENTION (R175). -/
def Attention.latch (a : Attention) (f : AttentionFlag) : Attention :=
  { a with flags := a.flags.put true f }

/-- What a queuing does to NOTICE (R176) and HIGH (R177): `wasEmpty` says whether the queue was empty before,
`reached` whether it now stands at the watermark. -/
def Attention.queued (a : Attention) (wasEmpty reached : Bool) : Attention :=
  let notice := match a.mode with
    | .level => true
    | .first => a.flags.notice || wasEmpty
  { a with flags := { a.flags with notice := notice, high := a.flags.high || reached } }

/-- What a removal that leaves `empty` does to NOTICE: LEVEL follows the queue, FIRST keeps its latch (R176). -/
def Attention.removed (a : Attention) (empty : Bool) : Attention :=
  match a.mode with
  | .level => { a with flags := { a.flags with notice := !empty } }
  | .first => a

/-- CLEAR_ATTENTION of the named flags: in LEVEL, NOTICE stays set while the queue holds a notice (R179). -/
def Attention.clear (a : Attention) (named : AttentionSet) (empty : Bool) : Attention :=
  let flags := a.flags.minus named
  match a.mode with
  | .level => { a with flags := { flags with notice := a.flags.notice && !(named.notice && empty) } }
  | .first => { a with flags := flags }

/-- SET_ATTENTION: the enables and the mode are set; a change to LEVEL sets NOTICE from the queue, and a change to FIRST keeps it (R176, R179). -/
def Attention.set (a : Attention) (enables : AttentionSet) (mode : NoticeMode) (empty : Bool) : Attention :=
  let notice := match a.mode, mode with
    | .first, .level => !empty
    | .level, .level | .level, .first | .first, .first => a.flags.notice
  { flags := { a.flags with notice := notice }, enables := enables, mode := mode }

end Sys2Proof.Machine
end

