-- ==== Sys2Proof/Machine/Operands.lean ====
section
/-! DEFINITION. Operand forms: the fields of payloads and their encodings (R191, section 11.6), the CRC-16 (R194),
host frames (R181, R183) and field telegrams (R194), and the records of R192 and R193.
Encodings that R191 leaves to inference are named in log 9. -/

namespace Sys2Proof.Machine

/-! ## Reading fields of a payload (little-endian, R191) -/

/-- The byte at an offset, as a number. -/
def u8 (p : List Byte) (i : Nat) : Nat := (p.getD i 0#8).toNat

/-- The two-byte quantity at an offset. -/
def u16 (p : List Byte) (i : Nat) : Nat := u8 p i + 256 * u8 p (i + 1)

/-- The four-byte quantity at an offset. -/
def u32 (p : List Byte) (i : Nat) : Nat := u16 p i + 65536 * u16 p (i + 2)

/-- The signed four-byte quantity at an offset, two's complement. -/
def s32 (p : List Byte) (i : Nat) : Int := (BitVec.ofNat 32 (u32 p i)).toInt

/-- A line number that is in range, 0 to 7. -/
def lineNo (n : Nat) : Option (Fin 8) := if h : n < 8 then some ⟨n, h⟩ else none

/-- A link number that is in range, 0 to 3. -/
def linkNo (n : Nat) : Option (Fin 4) := if h : n < 4 then some ⟨n, h⟩ else none

/-! ## Writing fields (R191) -/

def enc1 (n : Nat) : List Byte := [BitVec.ofNat 8 n]
def enc2 (n : Nat) : List Byte := [BitVec.ofNat 8 n, BitVec.ofNat 8 (n / 256)]
def enc4 (n : Nat) : List Byte := enc2 n ++ enc2 (n / 65536)
def encTick (t : BitVec 32) : List Byte := enc4 t.toNat
def encFlag (b : Bool) : List Byte := enc1 b.toNat

/-- Plant time is five bytes; when absent, the seconds are 0 and the hundredths FFh. -/
def encPlant : Option PlantTime → List Byte
  | some t => enc4 t.seconds ++ enc1 t.hundredths
  | none => enc4 0 ++ enc1 255

/-- An optional field: a presence byte, then the field, or as many zeros as it has bytes when it is absent. -/
def encOpt {α : Type} (width : Nat) (enc : α → List Byte) : Option α → List Byte
  | some a => enc1 1 ++ enc a
  | none => enc1 0 ++ List.replicate width 0#8

/-- A list: a count byte, then its items. -/
def encList {α : Type} (enc : α → List Byte) (l : List α) : List Byte :=
  enc1 l.length ++ l.flatMap enc

/-! ## Code tables (section 11.6) -/

def CauseClass.code : CauseClass → Nat
  | .equipment => 0 | .material => 1 | .operator => 2 | .quality => 3 | .utility => 4
  | .logistics => 5 | .overrun => 6 | .planned => 7 | .unassigned => 8

/-- The classes a Cause Map entry may have, by code (R45): OVERRUN and PLANNED are refused (R47). -/
def CauseClass.ofMapCode : Nat → Option CauseClass
  | 0 => some .equipment | 1 => some .material | 2 => some .operator | 3 => some .quality | 4 => some .utility
  | 5 => some .logistics | 8 => some .unassigned | _ => none

def CodeKind.code : CodeKind → Nat
  | .fault => 0 | .operator => 1

def CodeKind.ofCode : Nat → Option CodeKind
  | 0 => some .fault | 1 => some .operator | _ => none

def ReportedState.code : ReportedState → Nat
  | .off => 0 | .run => 1 | .starved => 2 | .blocked => 3 | .fault => 4 | .operatorStop => 5 | .changeover => 6

/-- The reported state of a state code; code 7 names none (R9, R150). -/
def ReportedState.ofCode : Nat → Option ReportedState
  | 0 => some .off | 1 => some .run | 2 => some .starved | 3 => some .blocked | 4 => some .fault
  | 5 => some .operatorStop | 6 => some .changeover | _ => none

def StationLink.code : StationLink → Nat
  | .unknown => 0 | .reporting => 1 | .silent => 2

def Mode.code : Mode → Nat
  | .scheduled => 0 | .notScheduled => 1 | .planned _ _ => 2 | .changeover _ _ _ => 3

def Condition.code : Condition → Nat
  | .notScheduled => 0 | .planned _ _ => 1 | .changeover _ _ => 2 | .overrun _ => 3 | .unobserved => 4
  | .producing => 5 | .candidate _ => 6 | .stopped _ => 7 | .restarting _ _ _ => 8

def TimeClass.code : TimeClass → Nat
  | .notScheduled => 0 | .planned => 1 | .changeover => 2 | .overrun => 3 | .unobserved => 4
  | .producing => 5 | .shortStop => 6 | .stopped => 7

def CloseReason.code : CloseReason → Nat
  | .trigger => 1 | .request => 2 | .productLimit => 3 | .ageLimit => 4 | .rehearseStart => 5
  | .rehearseEnd => 6 | .lineReset => 7 | .suspend => 8 | .snapshot => 9

def StopReason.code : StopReason → Nat
  | .restartConfirmed => 0 | .modeDeclared => 1 | .constraintUnseen => 2 | .abandoned => 3

def CounterName.code : CounterName → Nat
  | .infeed => 0 | .outfeed => 1 | .reject => 2 | .all => 3

def DiscontinuityReason.code : DiscontinuityReason → Nat
  | .stationRestart => 0 | .gapTooLong => 1 | .implausible => 2

def LinkState.code : LinkState → Nat
  | .idle => 0 | .hunt => 1 | .active => 2 | .fault _ => 3

def LinkFault.code : LinkFault → Nat
  | .noReplies => 0 | .busStuck => 1

def PolarityMode.code : PolarityMode → Nat
  | .auto => 0 | .normal => 1 | .swapped => 2

def PolarityMode.ofCode : Nat → Option PolarityMode
  | 0 => some .auto | 1 => some .normal | 2 => some .swapped | _ => none

def Polarity.code : Polarity → Nat
  | .normal => 1 | .swapped => 2

def TriggerState.code : TriggerState → Nat
  | .disarmed => 0 | .armed => 1 | .spent => 2

def NoticeMode.code : NoticeMode → Nat
  | .level => 0 | .first => 1

def NoticeMode.ofCode : Nat → Option NoticeMode
  | 0 => some .level | 1 => some .first | _ => none

def PartState.code : PartState → Nat
  | .configuring => 0 | .monitoring => 1

/-- The bit rate in bit/s (R143). -/
def BitRate.bps : BitRate → Nat
  | .b62500 => 62500 | .b125000 => 125000 | .b250000 => 250000 | .b500000 => 500000

/-- One of the four bit rates of R143. -/
def BitRate.ofBps (n : Nat) : Option BitRate :=
  if n = 62500 then some .b62500 else if n = 125000 then some .b125000
  else if n = 250000 then some .b250000 else if n = 500000 then some .b500000 else none

def ResultCode.code : ResultCode → Nat
  | .ok => 0 | .unknownKind => 1 | .badLength => 2 | .badValue => 3 | .wrongState => 4 | .notFound => 5
  | .duplicate => 6 | .full => 7 | .late => 8 | .clockUnset => 9 | .empty => 10 | .notRehearsing => 11
  | .invalidConfig => 12 | .notEmpty => 13

/-- The number of a notice's kind (section 11.6). -/
def NoticeBody.kind : NoticeBody → Nat
  | .stopOpened _ _ _ _ => 0
  | .stopReattributed _ _ _ => 1
  | .stopClosed _ _ _ _ _ => 2
  | .longStop _ _ _ => 3
  | .allowanceExceeded _ _ => 4
  | .slowDeclared _ _ => 5
  | .slowCleared _ _ => 6
  | .stationSilent _ _ => 7
  | .stationReporting _ _ => 8
  | .countDiscontinuity _ _ _ => 9
  | .periodClosed _ _ _ => 10
  | .triggerFired _ _ _ _ _ => 11
  | .linkFault _ _ => 12
  | .linkCleared _ _ => 13
  | .linkPolarity _ _ => 14
  | .gap _ => 15

/-- The host link's bit rate by the sampled RATE1 and RATE0 (R181). -/
def HostLink.bitRate (h : HostLink) : Nat :=
  match h.rate1, h.rate0 with
  | false, false => 115200
  | false, true => 230400
  | true, false => 460800
  | true, true => 921600

/-! ## The CRC-16 (section 11.7) -/

/-- One bit of the CRC: generator 1021h, most significant bit first. -/
def crcBit (c : BitVec 16) : BitVec 16 :=
  if c.msb then (c <<< 1) ^^^ 0x1021#16 else c <<< 1

/-- One byte of the CRC. -/
def crcByte (c : BitVec 16) (b : Byte) : BitVec 16 :=
  crcBit (crcBit (crcBit (crcBit (crcBit (crcBit (crcBit (crcBit (c ^^^ (b.setWidth 16 <<< 8)))))))))

/-- The CRC of some bytes: initial value FFFFh, no final inversion. -/
def crc16 (bytes : List Byte) : BitVec 16 := bytes.foldl crcByte 0xFFFF#16

/-- The check, low byte first. -/
def check (bytes : List Byte) : List Byte := enc2 (crc16 bytes).toNat

/-! ## Host frames -/

/-- What the bytes after a start byte amount to (R182). -/
inductive FrameScan where
  | incomplete
  | bad
  | good (kind : Byte) (payload rest : List Byte)
  deriving DecidableEq, Repr

/-- Reads a frame from the bytes that follow its start byte: two length bytes, the kind and payload, two check bytes (R181).
A length of 0 or above 257 is found when the second length byte is there; a check that does not match, when the frame completes (R182). -/
def scanFrame (bytes : List Byte) : FrameScan :=
  if bytes.length < 2 then .incomplete
  else
    let len := u16 bytes 0
    if len = 0 ∨ 257 < len then .bad
    else if bytes.length < len + 4 then .incomplete
    else if check (bytes.take (len + 2)) = (bytes.drop (len + 2)).take 2 then
      .good (bytes.getD 2 0#8) ((bytes.drop 3).take (len - 1)) (bytes.drop (len + 4))
    else .bad

/-- Hunting over bytes (R182): bytes other than A5h are dropped; an A5h begins a frame, and hunting resumes after the start byte of a
discarded frame, or after a complete one. `gap` says that a character gap of more than 5 ms follows the last byte, so that a frame still
incomplete there is discarded too (log 10). Answers the frames that complete, in order, and the receiver. Each turn drops a byte, so
`fuel` of the number of bytes suffices. -/
def hunt (gap : Bool) : Nat → List Byte → List (Byte × List Byte) × Receiver
  | _, [] => ([], .hunting)
  | 0, _ :: _ => ([], .hunting)
  | fuel + 1, b :: rest =>
    if b = 0xA5#8 then
      match scanFrame rest with
      | .incomplete => if gap then hunt gap fuel rest else ([], .collecting rest)
      | .bad => hunt gap fuel rest
      | .good kind payload more => ((kind, payload) :: (hunt gap fuel more).1, (hunt gap fuel more).2)
    else hunt gap fuel rest

/-- The status byte: the result code, with the overrun flag in bit 7 (R183). -/
def Response.status (r : Response) : Byte := BitVec.ofNat 8 (r.result.code + 128 * r.overrun.toNat)

/-- The response frame (R183): start byte, length of kind, status and payload, the three, and the check over all but the start byte. -/
def Response.frame (r : Response) : List Byte :=
  let covered := enc2 (2 + r.payload.length) ++ r.kind :: r.status :: r.payload
  0xA5#8 :: covered ++ check covered

/-- A request frame, as the host sends it (R181). -/
def requestFrame (kind : Byte) (payload : List Byte) : List Byte :=
  let covered := enc2 (1 + payload.length) ++ kind :: payload
  0xA5#8 :: covered ++ check covered

/-! ## Field telegrams (R194) -/

/-- The wire that carries a character's bits in a polarity: FnA in NORMAL, FnB in SWAPPED, which exchanges the roles of the two (R194; which
wire it is in NORMAL is log 26). -/
def Polarity.read {α : Type} : Polarity → Pair α → α
  | .normal, w => w.fnA
  | .swapped, w => w.fnB

/-- The pair driven with a character in a polarity: its bits on one wire, their complement on the other, exchanged by SWAPPED (R194; log 26). -/
def Polarity.drive : Polarity → Byte → Pair Byte
  | .normal, b => { fnA := b, fnB := ~~~b }
  | .swapped, b => { fnA := ~~~b, fnB := b }

/-- The level on the pair is a start bit in a polarity: the wire that carries the bits is low (R143, R148; log 26). -/
def Polarity.seesStart (p : Polarity) (w : Pair Bool) : Bool := !p.read w

/-- The Poll telegram to a node address. -/
def pollTelegram (address : Nat) : List Byte :=
  let covered := 0x3C#8 :: enc1 address ++ [0x0F#8]
  covered ++ check covered

/-- What a good report carries (R151, R165). -/
structure Report where
  state    : ReportedState
  restart  : Bool
  code     : Nat
  age      : Nat
  counters : Counters
  deriving DecidableEq, Repr

/-- What a slot's reply comes to (R150). -/
inductive SlotOutcome where
  | timeout
  | checkError
  | contentError
  | good (r : Report)
  deriving DecidableEq, Repr

/-- The outcome of a reply of 14 characters from the node polled, judged in the order of R150. -/
def judgeReply (address : Nat) (chars : List Byte) : SlotOutcome :=
  if chars.length = 14 ∧ chars.getD 0 0#8 = 0xC3#8 ∧ u8 chars 1 = address ∧ chars.getD 2 0#8 = 0xF0#8
      ∧ check (chars.take 12) = chars.drop 12 then
    match ReportedState.ofCode (u8 chars 3 % 8) with
    | none => .contentError
    | some st =>
      .good { state := st, restart := (u8 chars 3).testBit 7, code := u8 chars 4, age := u8 chars 5
              counters := { infeed := BitVec.ofNat 16 (u16 chars 6), outfeed := BitVec.ofNat 16 (u16 chars 8)
                            reject := BitVec.ofNat 16 (u16 chars 10) } }
  else .checkError

/-! ## Records -/

/-- A root is three bytes: station, cause and class (R191). -/
def encRoot (r : Root) : List Byte := enc1 r.station ++ enc1 r.cause ++ enc1 r.cls.code

/-- The kind fields of a notice, from offset 12 (R192). `tick` is the notice's arrival tick, for the end offset. -/
def NoticeBody.fields (tick : Tick) : NoticeBody → List Byte
  | .stopOpened n start root carried => encTick n ++ encTick start ++ encRoot root ++ encFlag carried
  | .stopReattributed n root segs => encTick n ++ encRoot root ++ enc4 segs
  | .stopClosed n finish duration reason segs =>
    encTick n ++ enc2 (tick - finish).toNat ++ encTick duration ++ enc2 (16384 * reason.code + min segs 16383)
  | .longStop n station cause => encTick n ++ enc1 station ++ enc1 cause
  | .allowanceExceeded changeover cause => enc1 (if changeover then 3 else 2) ++ enc1 cause
  | .slowDeclared actual expected => enc4 actual ++ enc4 expected
  | .slowCleared actual expected => enc4 actual ++ enc4 expected
  | .stationSilent station last => enc1 station ++ encTick (last.getD 0#32)
  | .stationReporting station last => enc1 station ++ encTick last
  | .countDiscontinuity station counter reason => enc1 station ++ enc1 counter.code ++ enc1 reason.code
  | .periodClosed n reason displaced => encTick n ++ enc1 reason.code ++ encOpt 4 encTick displaced
  | .triggerFired k closed skipped intervals moved =>
    enc1 k.val ++ enc1 closed.toNat ++ enc1 skipped.toNat ++ enc4 intervals ++ encFlag moved
  | .linkFault k reason => enc1 k.val ++ enc1 reason.code
  | .linkCleared k polarity => enc1 k.val ++ enc1 polarity.code
  | .linkPolarity k polarity => enc1 k.val ++ enc1 polarity.code
  | .gap count => enc4 count

/-- A notice record of 24 bytes (R192): kind fields that a kind does not use are 0. -/
def Notice.bytes (n : Notice) : List Byte :=
  let fields := n.body.fields n.tick
  enc2 n.sequence.toNat ++ enc1 (n.body.kind + 16 * (n.line.map (·.val)).getD 15) ++ encTick n.tick ++ encPlant n.plant
    ++ fields ++ List.replicate (12 - fields.length) 0#8

def ClassTotals.bytes (c : ClassTotals) : List Byte :=
  encTick c.notScheduled ++ encTick c.planned ++ encTick c.changeover ++ encTick c.overrun
    ++ encTick c.unobserved ++ encTick c.producing ++ encTick c.shortStop ++ encTick c.stopped

def ProductRun.bytes (r : ProductRun) : List Byte :=
  enc2 r.product ++ encTick r.start ++ enc4 r.constraintGood ++ enc4 r.finishedGood

def StationEntry.bytes (e : StationEntry) : List Byte :=
  enc1 e.station ++ enc4 e.infeed ++ enc4 e.outfeed ++ enc4 e.rejects ++ enc4 e.discontinuities
    ++ encTick e.halted ++ encTick e.unseen

def Bucket.bytes (b : Bucket) : List Byte :=
  enc1 b.station ++ enc1 b.cause ++ enc1 b.cls.code ++ enc4 b.stoppages ++ encTick b.stopTicks
    ++ enc4 b.microStops ++ encTick b.microTicks

/-- The bucket list of a period, with any Other bucket last (R104). -/
def Period.allBuckets (p : Period) : List Bucket := p.buckets ++ p.other.toList

/-- The elapsed ticks of a record: the close tick less the start tick (R113). -/
def ClosedRecord.elapsed (r : ClosedRecord) : Tick := r.closeTick - r.period.start

/-- A record's length in bytes (R193). -/
def ClosedRecord.length (r : ClosedRecord) : Nat :=
  107 + 14 * r.period.runs.length + 25 * r.period.stations.length + 19 * r.period.allBuckets.length

/-- The flag byte of a record (R193, offset 30). -/
def ClosedRecord.flagByte (r : ClosedRecord) : Nat :=
  r.period.rehearsal.toNat + 2 * r.period.inCandidate.toNat + 4 * r.period.inStoppage.toNat
    + 8 * r.period.otherUsed.toNat + 16 * r.period.saturated.toNat + 32 * r.outCandidate.toNat
    + 64 * r.outStoppage.isSome.toNat + 128 * r.windowRunning.toNat

/-- The bytes of a closed period record or a snapshot (R193). -/
def ClosedRecord.bytes (r : ClosedRecord) : List Byte :=
  let p := r.period
  enc2 r.length ++ enc1 p.line.val ++ encTick p.number ++ encTick p.start ++ encPlant p.startPlant
    ++ encTick r.closeTick ++ encTick r.elapsed ++ encPlant r.closePlant ++ enc1 r.reason.code
    ++ enc1 r.flagByte ++ encFlag r.displaced.isSome
    ++ encTick (r.outStoppage.getD 0#32) ++ encTick (r.displaced.getD 0#32)
    ++ p.classes.bytes
    ++ encTick p.carriedShort ++ encTick p.slowTicks ++ enc4 p.shortfall ++ enc4 p.completedWindows
    ++ enc4 p.stoppagesOpened ++ enc4 p.microStops ++ enc4 p.constraintGood ++ enc4 p.finishedGood
    ++ enc1 p.runs.length ++ enc1 p.stations.length ++ enc1 p.allBuckets.length
    ++ p.runs.flatMap ProductRun.bytes ++ p.stations.flatMap StationEntry.bytes ++ p.allBuckets.flatMap Bucket.bytes

end Sys2Proof.Machine
end

