-- ==== Sys2Proof/Machine/Ops.lean ====
section
/-! DEFINITION. The named operations the meanings share: ticks, lists, accessors of the state, plant time, the Journal and the attention
latches, free values, and the taking and answering of a request. -/

namespace Sys2Proof.Machine

/-! ## Ticks -/

/-- The instant `e` has been reached at `now`: it lies at or before it on the Run Clock, judged by distance modulo 2^32
(00_scope.md 3.2; log 3). -/
def reached (e now : Tick) : Bool := (now - e).toNat < 2147483648

/-- Of two instants at or before `now`, the one less far back from it (R17, R30). -/
def laterBack (now a b : Tick) : Tick := if (now - a).toNat ≤ (now - b).toNat then a else b

/-- A number of ticks as a Run Clock interval. -/
def ticks (n : Nat) : Tick := BitVec.ofNat 32 n

/-! ## Lists -/

/-- Changes the first item for which `p` holds. -/
def modifyFirst {α : Type} (p : α → Bool) (f : α → α) : List α → List α
  | [] => []
  | a :: as => if p a then f a :: as else a :: modifyFirst p f as

/-- Changes the last item. -/
def modifyLast {α : Type} (f : α → α) : List α → List α
  | [] => []
  | [a] => [f a]
  | a :: b :: as => a :: modifyLast f (b :: as)

/-- The eight lines, in ascending order. -/
def allLines : List (Fin 8) := [0, 1, 2, 3, 4, 5, 6, 7]

/-- The four links. -/
def allLinks : List (Fin 4) := [0, 1, 2, 3]

/-- The eight triggers, in ascending order. -/
def allTriggers : List (Fin 8) := [0, 1, 2, 3, 4, 5, 6, 7]

/-! ## Accessors of lines -/

/-- A line's definition and mode state, if the line is defined. -/
def State.line? (s : State) (l : Fin 8) : Option Line := s.lines[l]

/-- A defined line's live state, in MONITORING. -/
def State.live? (s : State) (l : Fin 8) : Option Live := (s.line? l).bind (·.live)

def State.setLine (s : State) (l : Fin 8) (x : Option Line) : State :=
  { s with lines := s.lines.set l x }

/-- Changes a defined line. -/
def State.updLine (s : State) (l : Fin 8) (f : Line → Line) : State :=
  s.setLine l ((s.line? l).map f)

/-- Changes a line's live state. -/
def State.updLive (s : State) (l : Fin 8) (f : Live → Live) : State :=
  s.updLine l fun ln => { ln with live := ln.live.map f }

/-- Acts on a line in MONITORING: a line that is not defined, or not live, is left as it is. -/
def State.withLive (s : State) (l : Fin 8) (k : Line → Live → State) : State :=
  match s.line? l with
  | none => s
  | some ln =>
    match ln.live with
    | none => s
    | some lv => k ln lv

/-- The line is rehearsing (R160). -/
def State.rehearsing (s : State) (l : Fin 8) : Bool := ((s.line? l).map (·.rehearsal)).getD false

/-! ## Accessors of stations and links -/

/-- The record of a station number. -/
def State.station? (s : State) (n : Nat) : Option Station := s.stations.find? fun r => r.number == n

/-- Changes the record of a station number. -/
def State.updStation (s : State) (n : Nat) (f : Station → Station) : State :=
  { s with stations := modifyFirst (fun r => r.number == n) f s.stations }

/-- Changes every record of a line. -/
def State.updStationsOf (s : State) (l : Fin 8) (f : Station → Station) : State :=
  { s with stations := s.stations.map fun r => if r.line = l then f r else r }

/-- The stations of a line in ascending order of position (R4, R106). -/
def lineStations (stations : List Station) (l : Fin 8) : List Station :=
  (List.range' 1 16).filterMap fun p => stations.find? fun r => r.line == l && r.position == p

/-- The stations of a link in ascending order of node address (R146). -/
def linkStations (stations : List Station) (k : Fin 4) : List Station :=
  (List.range' 1 31).filterMap fun a => stations.find? fun r => r.link == k && r.address == a

def State.link (s : State) (k : Fin 4) : Link := s.links[k]

def State.updLink (s : State) (k : Fin 4) (f : Link → Link) : State :=
  { s with links := s.links.set k (f (s.link k)) }

def State.trigger (s : State) (k : Fin 8) : Trigger := s.triggers[k]

def State.updTrigger (s : State) (k : Fin 8) (f : Trigger → Trigger) : State :=
  { s with triggers := s.triggers.set k (f (s.trigger k)) }

/-! ## Plant time -/

/-- The Plant Clock as it stands at a tick: for each 100 ticks passed since the second boundary the seconds are one more and the
boundary 100 later (R132), and past 4,294,967,295 seconds the clock is unset (R136). The register itself is moved by
PLANT_SECOND_ADVANCE and PLANT_CLOCK_LIMIT; a command of the same tick sees the same time before and after them (log 5). -/
def plantAt (c : Option PlantClock) (now : Tick) : Option PlantClock :=
  match c with
  | none => none
  | some p =>
    let passed := (now - p.boundary).toNat / 100
    if p.seconds + passed ≤ maxCount then some { seconds := p.seconds + passed, boundary := p.boundary + ticks (100 * passed) }
    else none

/-- The Plant Clock at the present tick. -/
def State.plantNow (s : State) : Option PlantClock := plantAt s.plant s.runClock

/-- Plant time at the present tick: seconds and hundredths, absent while the clock is unset (R132, R133). -/
def State.plantTime (s : State) : Option PlantTime :=
  s.plantNow.map fun p => { seconds := p.seconds, hundredths := (s.runClock - p.boundary).toNat }

/-- Plant time less an interval of ticks; absent when it would pass below 0 seconds (R133). -/
def PlantTime.less (t : PlantTime) (n : Nat) : Option PlantTime :=
  let h := 100 * t.seconds + t.hundredths
  if n ≤ h then some { seconds := (h - n) / 100, hundredths := (h - n) % 100 } else none

/-! ## Journal and attention latches -/

/-- Latches an attention flag (R175). -/
def State.latch (s : State) (f : AttentionFlag) : State := { s with attention := s.attention.latch f }

/-- Appends a notice: it takes the next sequence, and the Attention Unit is told (R170 step 2, R176, R177). -/
def State.enqueue (s : State) (line : Option (Fin 8)) (body : NoticeBody) : State :=
  let n : Notice :=
    { sequence := s.journal.nextSequence, line := line, tick := s.runClock, plant := s.plantTime, body := body }
  let queue := s.journal.queue ++ [n]
  { s with
    journal := { s.journal with queue := queue, nextSequence := s.journal.nextSequence + 1 }
    attention := s.attention.queued s.journal.queue.isEmpty (queue.length == s.journal.watermark) }

/-- Hands a notice to the Journal (R170): a masked kind is not made, a notice without room is counted in the gap count. Without room counts too
when a GAP notice has filled the queue again: the model's choice between R170 and the table of R174 (log 29). -/
def State.notify (s : State) (line : Option (Fin 8)) (body : NoticeBody) : State :=
  if s.journal.mask.getLsbD body.kind then s
  else if s.journal.queue.length < 512 ∧ s.journal.gapCount = 0 then s.enqueue line body
  else { s with journal := { s.journal with gapCount := satAdd s.journal.gapCount 1 } }

/-! ## Free values -/

/-- A number from 1 to 4,294,967,295 that the manual does not state, fresh at each draw (log 6, log 7). -/
def State.freeCount (s : State) : Nat := 1 + (Config.freeWord s.freeDraws).toNat % maxCount

/-- One more than a count that the manual bounds by 4,294,967,295 without saying what follows: past the bound, a free value of the same
range. Answers the count and the state that has drawn it. -/
def State.countUp (s : State) (n : Nat) : Nat × State :=
  if n < maxCount then (n + 1, s) else (s.freeCount, { s with freeDraws := s.freeDraws + 1 })

/-! ## Taking and answering a request -/

/-- What a block answers to a request: a result and the payload of the response (R183). -/
structure Reply where
  result  : ResultCode
  payload : List Byte
  deriving DecidableEq, Repr

def Reply.ok (payload : List Byte := []) : Reply := { result := .ok, payload := payload }

/-- A refusal without a payload (R183). -/
def Reply.refuse (r : ResultCode) : Reply := { result := r, payload := [] }

/-- BAD_VALUE carries the number of the failing field, 0 where the rule names none (R183). -/
def Reply.badValue (field : Nat := 0) : Reply := { result := .badValue, payload := enc1 field }

/-- Starts the sending of a response: its kind is the request's with the top bit set, its status carries the overrun flag, which is cleared
as the response is built (R183, R184). -/
def State.respond (s : State) (kind : Byte) (r : Reply) : State :=
  { s with host := { s.host with
      sending := some { kind := kind ||| 0x80#8, result := r.result, overrun := s.host.overrun, payload := r.payload }
      overrun := false } }

/-- A request frame with a good check, of the given kind and payload, at the present tick (R183, R184; log 1): while the receiver is idle its
characters are lost (R189); while a response is being sent it is discarded and sets the overrun flag; otherwise its length is checked,
its block acts, and the response is built from the result. -/
def State.request (s : State) (kind : Byte) (lengths : List Nat) (block : List Byte → State → State × Reply)
    (payload : List Byte) : State :=
  if s.host.receiver = .idle then s
  else if s.host.sending.isSome then { s with host := { s.host with overrun := true } }
  else if lengths.contains payload.length then
    let r := block payload s
    r.1.respond kind r.2
  else s.respond kind (.refuse .badLength)

end Sys2Proof.Machine
end

