-- ==== Sys2Proof/Machine/Tally.lean ====
section
/-! DEFINITION. The Tally Book (chapter 5): how charges enter a period's account, and how a period opens. -/

namespace Sys2Proof.Machine

/-! ## Time classes -/

def ClassTotals.zero : ClassTotals :=
  { notScheduled := 0#32, planned := 0#32, changeover := 0#32, overrun := 0#32
    unobserved := 0#32, producing := 0#32, shortStop := 0#32, stopped := 0#32 }

/-- Adds ticks to one time class (R94). Tick totals do not saturate (R93). -/
def ClassTotals.add (t : ClassTotals) (n : Tick) : TimeClass → ClassTotals
  | .notScheduled => { t with notScheduled := t.notScheduled + n }
  | .planned => { t with planned := t.planned + n }
  | .changeover => { t with changeover := t.changeover + n }
  | .overrun => { t with overrun := t.overrun + n }
  | .unobserved => { t with unobserved := t.unobserved + n }
  | .producing => { t with producing := t.producing + n }
  | .shortStop => { t with shortStop := t.shortStop + n }
  | .stopped => { t with stopped := t.stopped + n }

/-- The sum of the eight time classes (R99). -/
def ClassTotals.total (t : ClassTotals) : Tick :=
  t.notScheduled + t.planned + t.changeover + t.overrun + t.unobserved + t.producing + t.shortStop + t.stopped

/-! ## Buckets -/

/-- What a charge adds to its bucket (table of R101). -/
structure BucketPart where
  stoppages  : Nat
  stopTicks  : Tick
  microStops : Nat
  microTicks : Tick
  deriving DecidableEq, Repr

def BucketPart.promotion : BucketPart := { stoppages := 1, stopTicks := 0#32, microStops := 0, microTicks := 0#32 }
def BucketPart.segment (n : Tick) : BucketPart := { stoppages := 0, stopTicks := n, microStops := 0, microTicks := 0#32 }
def BucketPart.microStop (n : Tick) : BucketPart := { stoppages := 0, stopTicks := 0#32, microStops := 1, microTicks := n }

/-- A bucket as it is created for a root: counts and ticks 0 (R102). -/
def Bucket.fresh (r : Root) : Bucket :=
  { station := r.station, cause := r.cause, cls := r.cls, stoppages := 0, stopTicks := 0#32, microStops := 0, microTicks := 0#32 }

/-- The key of the Other bucket, with its class (R103). -/
def otherRoot : Root := { station := 255, cause := 0, cls := .unassigned }

/-- The bucket has the root's key (R100). -/
def Bucket.hasKey (b : Bucket) (r : Root) : Bool := b.station == r.station && b.cause == r.cause

/-- Adds a charge's part to a bucket: the counts saturate (R93), the class stays (R102). -/
def Bucket.add (b : Bucket) (d : BucketPart) : Bucket :=
  { b with stoppages := satAdd b.stoppages d.stoppages, stopTicks := b.stopTicks + d.stopTicks
           microStops := satAdd b.microStops d.microStops, microTicks := b.microTicks + d.microTicks }

/-- Adding the part takes a count of the bucket past its bound (R93). -/
def Bucket.overflows (b : Bucket) (d : BucketPart) : Bool := satOver b.stoppages d.stoppages || satOver b.microStops d.microStops

/-- A charge that names a key reaches the bucket list (R101–R103): the keyed bucket with its key, else a new one while the list has fewer
than 48, else the Other bucket, whose creation sets OTHER_USED. -/
def Period.bucketCharge (p : Period) (r : Root) (d : BucketPart) : Period :=
  match p.buckets.find? (·.hasKey r) with
  | some b => { p with buckets := modifyFirst (·.hasKey r) (·.add d) p.buckets, saturated := p.saturated || b.overflows d }
  | none =>
    if p.buckets.length < 48 then
      { p with buckets := p.buckets ++ [(Bucket.fresh r).add d] }
    else
      let b := p.other.getD (Bucket.fresh otherRoot)
      { p with other := some (b.add d), otherUsed := true, saturated := p.saturated || b.overflows d }

/-! ## The charges of the Line Tracker (table of R94) -/

/-- An UNOBSERVED, PRODUCING or NOT_SCHEDULED stretch. -/
def Period.chargeStretch (p : Period) (c : TimeClass) (n : Tick) : Period := { p with classes := p.classes.add n c }

/-- A stoppage segment: STOPPED and the key's stop ticks (R44). -/
def Period.chargeSegment (p : Period) (r : Root) (n : Tick) : Period :=
  (p.chargeStretch .stopped n).bucketCharge r (.segment n)

/-- The root of a planned segment: pseudo-station 255 with its cause, class PLANNED (R57). -/
def plannedRoot (cause : Nat) : Root := { station := 255, cause := cause, cls := .planned }

/-- The root of an OVERRUN segment: (255, 248), class OVERRUN (R57). -/
def overrunRoot : Root := { station := 255, cause := 248, cls := .overrun }

/-- A planned segment: its time class and the stop ticks of its bucket (R57). -/
def Period.chargePlanned (p : Period) (c : TimeClass) (r : Root) (n : Tick) : Period :=
  (p.chargeStretch c n).bucketCharge r (.segment n)

/-- A micro-stop: SHORT_STOP, the root's micro ticks, and one micro-stop in bucket and period (R25). -/
def Period.chargeMicroStop (p : Period) (r : Root) (n : Tick) : Period :=
  let q := (p.chargeStretch .shortStop n).bucketCharge r (.microStop n)
  { q with microStops := satAdd q.microStops 1, saturated := q.saturated || satOver q.microStops 1 }

/-- A carried short-stop: SHORT_STOP and the carried short-stop ticks (R97). -/
def Period.chargeCarriedShort (p : Period) (n : Tick) : Period :=
  { p.chargeStretch .shortStop n with carriedShort := p.carriedShort + n }

/-- A promotion: one stoppage in the first segment's bucket and in the period (R27). -/
def Period.chargePromotion (p : Period) (r : Root) : Period :=
  let q := p.bucketCharge r .promotion
  { q with stoppagesOpened := satAdd q.stoppagesOpened 1, saturated := q.saturated || satOver q.stoppagesOpened 1 }

/-! ## The charges of the Count and Rate Unit -/

/-- Slow ticks (R85). -/
def Period.chargeSlow (p : Period) (n : Tick) : Period := { p with slowTicks := p.slowTicks + n }

/-- A completed window: its shortfall, when above 0, and one completed window (R82). -/
def Period.chargeWindow (p : Period) (expected actual : Nat) : Period :=
  let short := expected - actual
  { p with shortfall := satAdd p.shortfall short, completedWindows := satAdd p.completedWindows 1
           saturated := p.saturated || satOver p.shortfall short || satOver p.completedWindows 1 }

/-- A station's entry at opening (R106). -/
def StationEntry.fresh (n : Nat) : StationEntry :=
  { station := n, infeed := 0, outfeed := 0, rejects := 0, discontinuities := 0, halted := 0#32, unseen := 0#32 }

/-- Changes a station's entry in the station section. -/
def Period.updEntry (p : Period) (n : Nat) (f : StationEntry → StationEntry) : Period :=
  { p with stations := modifyFirst (fun e => e.station == n) f p.stations }

/-- A station's entry, or one of zeros. -/
def Period.entry (p : Period) (n : Nat) : StationEntry :=
  (p.stations.find? fun e => e.station == n).getD (StationEntry.fresh n)

/-- Sets COUNT_SATURATED when the event calls for it (R91, R93). -/
def Period.flagOver (p : Period) (o : Bool) : Period := { p with saturated := p.saturated || o }

/-- One discontinuity of a station (R76). -/
def Period.countDiscontinuity (p : Period) (n : Nat) : Period :=
  (p.flagOver (satOver (p.entry n).discontinuities 1)).updEntry n
    fun e => { e with discontinuities := satAdd e.discontinuities 1 }

/-- An infeed delta credited to a station (R77). -/
def Period.creditInfeed (p : Period) (n d : Nat) : Period :=
  (p.flagOver (satOver (p.entry n).infeed d)).updEntry n fun e => { e with infeed := satAdd e.infeed d }

/-- An outfeed good delta credited to a station (R77). -/
def Period.creditOutfeed (p : Period) (n d : Nat) : Period :=
  (p.flagOver (satOver (p.entry n).outfeed d)).updEntry n fun e => { e with outfeed := satAdd e.outfeed d }

/-- A reject delta credited to a station (R77). -/
def Period.creditReject (p : Period) (n d : Nat) : Period :=
  (p.flagOver (satOver (p.entry n).rejects d)).updEntry n fun e => { e with rejects := satAdd e.rejects d }

/-- The current run: the last of the list (R65). -/
def Period.currentRun (p : Period) : ProductRun :=
  p.runs.getLastD { product := 0, start := 0#32, constraintGood := 0, finishedGood := 0 }

/-- A constraint's outfeed delta credited to the period and its current run (R78). -/
def Period.creditConstraint (p : Period) (d : Nat) : Period :=
  { p with
    constraintGood := satAdd p.constraintGood d
    runs := modifyLast (fun r => { r with constraintGood := satAdd r.constraintGood d }) p.runs
    saturated := p.saturated || satOver p.constraintGood d || satOver p.currentRun.constraintGood d }

/-- A finish station's outfeed delta credited to the period and its current run (R78). -/
def Period.creditFinish (p : Period) (d : Nat) : Period :=
  { p with
    finishedGood := satAdd p.finishedGood d
    runs := modifyLast (fun r => { r with finishedGood := satAdd r.finishedGood d }) p.runs
    saturated := p.saturated || satOver p.finishedGood d || satOver p.currentRun.finishedGood d }

/-! ## The charges of the Station Table -/

/-- A station's category (R15). -/
inductive Category where
  | unseen | halted | neither
  deriving DecidableEq, Repr

def Station.category (r : Station) : Category :=
  match r.linkState with
  | .unknown | .silent => .unseen
  | .reporting =>
    match r.reported with
    | some .fault | some .operatorStop => .halted
    | some .off | some .run | some .starved | some .blocked | some .changeover | none => .neither

/-- Adds ticks of a category to a station's entry (R15). -/
def Period.chargeCategory (p : Period) (n : Nat) (c : Category) (t : Tick) : Period :=
  match c with
  | .unseen => p.updEntry n fun e => { e with unseen := e.unseen + t }
  | .halted => p.updEntry n fun e => { e with halted := e.halted + t }
  | .neither => p

/-- Charges one station from its accrual start to a tick (R16). -/
def Period.chargeStation (p : Period) (t : Tick) (r : Station) : Period :=
  match r.accrualStart with
  | some a => p.chargeCategory r.number r.category (t - a)
  | none => p

/-- Charges the line's stations up to a tick (R16, R112 step 1). -/
def Period.chargeStations (p : Period) (t : Tick) (stations : List Station) : Period :=
  stations.foldl (fun q r => q.chargeStation t r) p

/-! ## Opening a period -/

/-- A period as it opens (R89, R90, R65, R106): all totals 0, one run of the current product, no bucket. -/
def Period.opened (line : Fin 8) (number : BitVec 32) (t : Tick) (plant : Option PlantTime) (rehearsal inCandidate inStoppage : Bool)
    (product : Nat) (stations : List Station) : Period :=
  { line := line, number := number, start := t, startPlant := plant, rehearsal := rehearsal
    inCandidate := inCandidate, inStoppage := inStoppage, otherUsed := false, saturated := false
    classes := ClassTotals.zero, carriedShort := 0#32, slowTicks := 0#32
    shortfall := 0, completedWindows := 0, stoppagesOpened := 0, microStops := 0, constraintGood := 0, finishedGood := 0
    runs := [{ product := product, start := t, constraintGood := 0, finishedGood := 0 }]
    stations := stations.map fun r => StationEntry.fresh r.number
    buckets := [], other := none }

/-- The age limit of a period that opens at a tick: 60,480,000 ticks later (R118). -/
def ageLimitOf (t : Tick) : Tick := t + 60480000#32

end Sys2Proof.Machine
end

