-- ==== Sys2Proof/Machine/Rate.lean ====
section
/-! DEFINITION. The Count and Rate Unit (chapter 4): counters, rate windows and slow running; SET_RATE, WINDOW_EXPIRY and GAP_EXPIRY. -/

namespace Sys2Proof.Machine

/-! ## Rate windows -/

/-- The window length in ticks (R1). -/
def LineDef.windowTicks (d : LineDef) : Nat := 100 * d.windowSeconds

/-- The window that starts at an instant, if the nominal rate is above 0 (R81). -/
def LineDef.startWindow (d : LineDef) (i : Tick) : Option Window :=
  if d.nominalRate = 0 then none
  else some
    { start := i, expiry := i + ticks d.windowTicks, expected := d.nominalRate * d.windowSeconds / 60
      declarePct := d.declarePct, clearPct := d.clearPct, actual := 0 }

/-- The slow state of a line whose window is over without a judgement: it keeps its value (R84), but a line whose nominal rate is 0 and that
runs no window is never SLOW (R81, R88). Where both speak, of a SLOW line with a nominal rate of 0 whose last window is abandoned, the model
lets R88 decide: slow is clear. That is the model's choice (log 27). -/
def LineDef.keepsSlow (d : LineDef) (slow : Bool) : Bool := slow && d.nominalRate != 0

/-- The line enters PRODUCING at an instant: a window starts, and slow time accrues if the line is SLOW (R81, R85). With a nominal rate of 0
no window starts, and slow is clear (R81). -/
def Live.startProducing (lv : Live) (d : LineDef) (i : Tick) : Live :=
  let slow := d.keepsSlow lv.rate.slow
  { lv with rate := { lv.rate with slow := slow, window := d.startWindow i, slowStart := if slow then some i else none } }

/-- The slow time up to an instant: none when the instant lies before the slow accrual start, judged by distance back from `now` (R84). -/
def slowTime (now start j : Tick) : Tick := if (now - j).toNat ≤ (now - start).toNat then j - start else 0#32

/-- The line leaves PRODUCING at an instant `j`: the window is abandoned, the runs are 0, the slow time is charged (R84). Slow keeps its value,
unless the nominal rate is 0 (R88; log 27). -/
def Live.leaveProducing (lv : Live) (d : LineDef) (now j : Tick) : Live :=
  { lv with
    rate := { lv.rate with slow := d.keepsSlow lv.rate.slow, window := none, lowRun := 0, highRun := 0, slowStart := none }
    period := match lv.rate.slowStart with
      | some a => lv.period.chargeSlow (slowTime now a j)
      | none => lv.period }

/-- Slow is cleared at a tick without a notice, and both runs are 0 (R88). The slow ticks charged here stay charged; settling
bounds them by the PRODUCING total (R108; log 28). -/
def Live.clearSlow (lv : Live) (now : Tick) : Live :=
  { lv with
    rate := { lv.rate with slow := false, lowRun := 0, highRun := 0, slowStart := none }
    period := match lv.rate.slowStart with
      | some a => lv.period.chargeSlow (now - a)
      | none => lv.period }

/-- The window is low (R82). -/
def Window.isLow (w : Window) : Bool := w.actual * 100 < w.expected * w.declarePct

/-- The window is high (R82). -/
def Window.isHigh (w : Window) : Bool := w.expected * w.clearPct ≤ w.actual * 100

/-- Steps 1 to 3 of R82: the runs, the shortfall and the window count, the last window values. The runs saturate at 16. -/
def Live.judgeWindow (lv : Live) (w : Window) : Live :=
  { lv with
    rate := { lv.rate with
      lowRun := if w.isLow then min (lv.rate.lowRun + 1) 16 else 0
      highRun := if w.isHigh then min (lv.rate.highRun + 1) 16 else 0
      last := some (w.actual, w.expected) }
    period := lv.period.chargeWindow w.expected w.actual }

/-- Step 5 of R82: the window is discarded, and the next starts, or slow is cleared when the nominal rate is 0 (R88). -/
def Live.nextWindow (lv : Live) (d : LineDef) (x : Tick) : Live :=
  if d.nominalRate = 0 then { lv.clearSlow x with rate := { (lv.clearSlow x).rate with window := none } }
  else { lv with rate := { lv.rate with window := d.startWindow x } }

/-- Step 4 of R82: SLOW is declared or cleared if the runs call for it (R83). Slow ticks charged at a clear stay charged, also when a stop
reported later is placed back before it; where that would exceed the PRODUCING total, settling bounds them (R108; log 28). -/
def State.judgeSlow (s : State) (l : Fin 8) (d : LineDef) (w : Window) : State :=
  s.withLive l fun _ lv =>
    if !lv.rate.slow && d.declareWindows ≤ lv.rate.lowRun then
      (s.updLive l fun lv => { lv with rate := { lv.rate with slow := true, slowStart := some s.runClock } }).notify
        (some l) (.slowDeclared w.actual w.expected)
    else if lv.rate.slow && d.clearWindows ≤ lv.rate.highRun then
      (s.updLive l fun lv =>
        { lv with
          rate := { lv.rate with slow := false, slowStart := none }
          period := match lv.rate.slowStart with
            | some a => lv.period.chargeSlow (s.runClock - a)
            | none => lv.period }).notify (some l) (.slowCleared w.actual w.expected)
    else s

/-- A window's expiry is taken: the window completes (R82). -/
def State.completeWindow (s : State) (l : Fin 8) : State :=
  s.withLive l fun ln lv =>
    match lv.rate.window with
    | none => s
    | some w =>
      if reached w.expiry s.runClock then
        ((s.updLive l (·.judgeWindow w)).judgeSlow l ln.defn w).updLive l (·.nextWindow ln.defn s.runClock)
      else s

/-! ## Counters -/

/-- The plausibility allowance of a report (R72): rate times elapsed over 6,000, rounded up, plus 8. -/
def plausibleUpTo (maxRate elapsed : Nat) : Nat := (maxRate * elapsed + 5999) / 6000 + 8

/-- The gap expiry set by a report applied at a tick: 393,216,000 ticks later (R70). -/
def gapAfter (a : Tick) : GapExpiry := { expiry := a + 393216000#32, taken := false }

/-- The station's gap expiry has been taken since its last applied report (R70, R17). -/
def Station.gapTaken (r : Station) : Bool :=
  match r.gap with
  | some g => g.taken
  | none => false

/-- A credit to the running window's actual (R78). -/
def Live.creditWindow (lv : Live) (d : Nat) : Live :=
  { lv with rate := { lv.rate with window := lv.rate.window.map fun w => { w with actual := w.actual + d } } }

/-- Credits an outfeed good delta to the station's entry and to the totals of its roles (R77, R78). -/
def Live.creditOutfeed (lv : Live) (r : Station) (d : Nat) : Live :=
  let lv := { lv with period := lv.period.creditOutfeed r.number d }
  let lv := if r.constraint then { lv.creditWindow d with period := lv.period.creditConstraint d } else lv
  if r.finish then { lv with period := lv.period.creditFinish d } else lv

/-- The delta of a counter, modulo 65536 (R70). -/
def counterDelta (value baseline : BitVec 16) : Nat := (value - baseline).toNat

/-- A discontinuity: one count in the station's entry, and one notice (R76 steps 2 and 3). -/
def State.discontinuity (s : State) (r : Station) (c : CounterName) (why : DiscontinuityReason) : State :=
  (s.updLive r.line fun lv => { lv with period := lv.period.countDiscontinuity r.number }).notify (some r.line)
    (.countDiscontinuity r.number c why)

/-- Judges one counter on its own: a plausible delta is credited, an implausible one is a discontinuity (R70 step 4, R75, R77). -/
def State.judgeCounter (s : State) (r : Station) (c : CounterName) (allowed delta : Nat) (credit : Live → Live) : State :=
  if delta ≤ allowed then s.updLive r.line credit else s.discontinuity r c .implausible

/-- Hands a report's counters to the Count and Rate Unit (R70): `r` is the record as it stands, `previous` the previous applied report
tick, at arrival tick `now`. -/
def State.takeCounters (s : State) (r : Station) (previous : Option Tick) (v : Counters) (restart : Bool) : State :=
  let judged :=
    match r.baselines with
    | none => s
    | some b =>
      let allowed := plausibleUpTo r.maxRate (s.runClock - previous.getD s.runClock).toNat
      if restart then s.discontinuity r .all .stationRestart
      else if 65536 ≤ allowed ∨ r.gapTaken then s.discontinuity r .all .gapTooLong
      else
        let dIn := counterDelta v.infeed b.infeed
        let dOut := counterDelta v.outfeed b.outfeed
        let dRej := counterDelta v.reject b.reject
        ((s.judgeCounter r .infeed allowed dIn
            fun lv => { lv with period := lv.period.creditInfeed r.number dIn }).judgeCounter r .outfeed allowed dOut
            (·.creditOutfeed r dOut)).judgeCounter r .reject allowed dRej
            fun lv => { lv with period := lv.period.creditReject r.number dRej }
  judged.updStation r.number fun q => { q with baselines := some v, gap := some (gapAfter s.runClock) }

/-- A station's gap expiry is taken: it is marked as taken (R70). -/
def State.takeGapExpiry (s : State) (n : Nat) : State :=
  match s.station? n with
  | none => s
  | some r =>
    match r.gap with
    | none => s
    | some g =>
      if reached g.expiry s.runClock then s.updStation n fun q => { q with gap := some { g with taken := true } } else s

/-! ## SET_RATE -/

/-- The effects of an accepted SET_RATE at a tick on a live line (R88). -/
def Live.rateChanged (lv : Live) (d : LineDef) (q : Tick) : Live :=
  match lv.rate.window with
  | some _ => lv
  | none =>
    if d.nominalRate = 0 then lv.clearSlow q
    else
      match lv.condition with
      | .producing => { lv with rate := { lv.rate with window := d.startWindow q } }
      | .notScheduled | .planned _ _ | .changeover _ _ | .overrun _ | .unobserved | .candidate _ | .stopped _
      | .restarting _ _ _ => lv

/-- SET_RATE (R88): line, nominal rate, declare percentage, clear percentage. -/
def setRate (p : List Byte) (s : State) : State × Reply :=
  let rate := u32 p 1
  let declare := u8 p 5
  let clear := u8 p 6
  if s.partState = .configuring then (s, .refuse .wrongState)
  else
    match lineNo (u8 p 0) with
    | none => (s, .badValue 1)
    | some l =>
      match s.line? l with
      | none => (s, .refuse .notFound)
      | some ln =>
        if 120000 < rate then (s, .badValue 11)
        else if declare < 50 ∨ 99 < declare then (s, .badValue 7)
        else if clear < 51 ∨ 100 < clear then (s, .badValue 8)
        else if clear ≤ declare then (s, .badValue 8)
        else
          let d := { ln.defn with nominalRate := rate, declarePct := declare, clearPct := clear }
          (s.setLine l (some { ln with defn := d, live := ln.live.map (·.rateChanged d s.runClock) }), .ok)

def hostSetRate (p : List Byte) (s : State) : State := s.request 0x11#8 [7] setRate p

def execSetRate (p : List Byte) (s : State) : Host.Outcome State Fault Refusal := .next (hostSetRate p s)

def execWindowExpiry (l : Fin 8) (s : State) : Host.Outcome State Fault Refusal := .next (s.completeWindow l)

def execGapExpiry (n : Nat) (s : State) : Host.Outcome State Fault Refusal := .next (s.takeGapExpiry n)

end Sys2Proof.Machine
end

