-- ==== Sys2Proof/Machine/Tracker.lean ====
section
/-! DEFINITION. The Line Tracker (chapter 2): the root-cause walk, candidate stops, stoppages and their timers, and what it does with
offers. `s.runClock` is the offer tick, or the tick at which an expiry is taken. -/

namespace Sys2Proof.Machine

/-! ## Cause Map lookups and built-in causes -/

/-- The class of a built-in cause (R42). -/
def builtInClass : Nat → CauseClass
  | 246 => .equipment
  | 247 => .operator
  | 248 => .overrun
  | 249 => .operator
  | 250 => .equipment
  | 251 => .material
  | 252 => .logistics
  | 254 => .operator
  | _ => .unassigned

/-- A root with a built-in cause (R42). -/
def builtIn (station cause : Nat) : Root := { station := station, cause := cause, cls := builtInClass cause }

/-- The entry of the Cause Map with a key (R45). -/
def mapEntry (m : List CauseEntry) (station : Nat) (kind : CodeKind) (code : Nat) : Option CauseEntry :=
  m.find? fun e => e.station == station && e.kind == kind && e.code == code

/-- The root a lookup gives (R46): the station's own entry, else the ANY entry (key 255), else built-in 255. -/
def lookupCause (m : List CauseEntry) (station : Nat) (kind : CodeKind) (code : Nat) : Root :=
  match mapEntry m station kind code with
  | some e => { station := station, cause := e.cause, cls := e.cls }
  | none =>
    match mapEntry m 255 kind code with
    | some e => { station := station, cause := e.cause, cls := e.cls }
    | none => builtIn station 255

/-! ## The walk (R38–R41) -/

/-- The result when a walk ends on a station (table of R40): `opposite` is the state that means a transport fault, BLOCKED for the upstream
walk and STARVED for the downstream walk. A REPORTING station always has a reported state; the reading of one without is not reached. -/
def readStop (m : List CauseEntry) (r : Station) : Root :=
  match r.linkState with
  | .unknown | .silent => builtIn r.number 253
  | .reporting =>
    match r.reported with
    | some .fault => lookupCause m r.number .fault r.faultCode
    | some .operatorStop => if r.reasonCode = 0 then builtIn r.number 249 else lookupCause m r.number .operator r.reasonCode
    | some .run => builtIn r.number 250
    | some .off => builtIn r.number 247
    | some .changeover => builtIn r.number 254
    | some .starved | some .blocked => builtIn r.number 246
    | none => builtIn r.number 253

/-- The walk steps on past a station that is REPORTING in the state `pass` (R40, R41). -/
def Station.passes (r : Station) (pass : ReportedState) : Bool := r.linkState == .reporting && r.reported == some pass

/-- Steps along the stations, nearest first. `last` is the station read last; when no station is left it is the end of the line, and the
root is it with `atEnd`, 251 upstream and 252 downstream (R40, R41). -/
def walkAlong (m : List CauseEntry) (pass : ReportedState) (atEnd : Nat) (last : Station) : List Station → Root
  | [] => builtIn last.number atEnd
  | r :: rest => if r.passes pass then walkAlong m pass atEnd r rest else readStop m r

/-- The walk from the constraint (R39). `stations` are the line's in ascending order of position; bypassed stations are passed over (R38).
Walks are made only while the constraint is REPORTING and not in RUN. -/
def walkFrom (m : List CauseEntry) (stations : List Station) (c : Station) : Root :=
  let seen := stations.filter fun r => !r.bypassed
  match c.linkState, c.reported with
  | .reporting, some .starved => walkAlong m .starved 251 c (seen.filter fun r => r.position < c.position).reverse
  | .reporting, some .blocked => walkAlong m .blocked 252 c (seen.filter fun r => c.position < r.position)
  | _, _ => readStop m c

/-- The constraint's record (R4). -/
def State.constraint? (s : State) (l : Fin 8) : Option Station :=
  (lineStations s.stations l).find? (·.constraint)

/-- A walk of the line as the records stand now. A line in MONITORING has a constraint (R186); without one the root is the line itself with
cause 253, which no run reaches (log 20). -/
def State.walk (s : State) (l : Fin 8) : Root :=
  match s.constraint? l with
  | some c => walkFrom s.causeMap (lineStations s.stations l) c
  | none => builtIn 255 253

/-- Two roots have the same key: station and cause together (R43). -/
def Root.sameKey (a b : Root) : Bool := a.station == b.station && a.cause == b.cause

/-! ## Charges at transitions -/

/-- The planned segment's charge of a condition, if it holds one (R57). -/
def Period.chargeTo (p : Period) (c : Condition) (lastChange t : Tick) : Period :=
  match c with
  | .notScheduled => p.chargeStretch .notScheduled (t - lastChange)
  | .planned cause start => p.chargePlanned .planned (plannedRoot cause) (t - start)
  | .changeover cause start => p.chargePlanned .changeover (plannedRoot cause) (t - start)
  | .overrun start => p.chargePlanned .overrun overrunRoot (t - start)
  | .unobserved => p.chargeStretch .unobserved (t - lastChange)
  | .producing => p.chargeStretch .producing (t - lastChange)
  | .candidate c => p.chargeCarriedShort (t - c.chargeStart)
  | .stopped st => p.chargeSegment st.root (t - st.segmentStart)
  | .restarting st _ _ => p.chargeSegment st.root (t - st.segmentStart)

/-- Charges the line's time from its frontier to a tick, in the class the condition calls for (R96). -/
def Live.chargeTo (lv : Live) (t : Tick) : Live := { lv with period := lv.period.chargeTo lv.condition lv.lastChange t }

/-- A new condition from an instant (R21). -/
def Live.become (lv : Live) (c : Condition) (t : Tick) : Live := { lv with condition := c, lastChange := t }

/-- The candidate resolves as a micro-stop at an instant (R25); the rule that calls it sets the condition. -/
def Live.resolveCandidate (lv : Live) (c : Candidate) (x : Tick) : Live :=
  { lv with period := lv.period.chargeMicroStop c.root (x - c.chargeStart) }

/-- A candidate stop that starts at an instant (R24 from step 3). -/
def Candidate.begin (d : LineDef) (root : Root) (at_ : Tick) : Candidate :=
  { start := at_, chargeStart := at_, carriedIn := false, root := root, promotion := at_ + ticks d.promotion }

/-- A STOP_CLOSED's duration: the end less the start, or 2,147,483,647 for a capped stoppage (R28). -/
def Stoppage.duration (st : Stoppage) (finish : Tick) : Tick := if st.capped then 2147483647#32 else finish - st.start

/-- The STOP_CLOSED notice of a stoppage. -/
def Stoppage.closedNotice (st : Stoppage) (finish : Tick) (why : StopReason) : NoticeBody :=
  .stopClosed st.number finish (st.duration finish) why st.segments

/-! ## Stoppages -/

/-- The current segment is charged to a tick and STOP_CLOSED is queued (R32 steps 2 and 3); the rule that calls the close sets the condition. -/
def State.closeStoppage (s : State) (l : Fin 8) (st : Stoppage) (why : StopReason) : State :=
  (s.updLive l (·.chargeTo s.runClock)).notify (some l) (st.closedNotice s.runClock why)

/-- A walk's result on a STOPPED line has a new key: the stoppage is re-attributed at the offer tick (R43). -/
def State.reattribute (s : State) (l : Fin 8) (st : Stoppage) (root : Root) : State :=
  let up := s.countUp st.segments
  let st' := { st with root := root, segmentStart := s.runClock, segments := up.1 }
  (up.2.updLive l fun lv => (lv.chargeTo s.runClock).become (.stopped st') s.runClock).notify (some l)
    (.stopReattributed st.number root up.1)

/-- A walk, and what its result does to the candidate or stoppage (R43). -/
def State.walkAgain (s : State) (l : Fin 8) : State :=
  s.withLive l fun _ lv =>
    let root := s.walk l
    match lv.condition with
    | .candidate c =>
      if root.sameKey c.root then s
      else s.updLive l fun lv => { lv with condition := .candidate { c with root := root } }
    | .stopped st => if root.sameKey st.root then s else s.reattribute l st root
    | .notScheduled | .planned _ _ | .changeover _ _ | .overrun _ | .unobserved | .producing | .restarting _ _ _ => s

/-- The confirmation of a restart is taken (R30): the stoppage ends at the restart instant, or at the start of the open period if that is
later. -/
def State.confirmRestart (s : State) (l : Fin 8) : State :=
  s.withLive l fun ln lv =>
    match lv.condition with
    | .restarting st restart confirm =>
      if reached confirm s.runClock then
        let now := s.runClock
        let finish := laterBack now restart lv.period.start
        (s.updLive l fun lv =>
          ({ lv with period :=
              (lv.period.chargeSegment st.root (finish - st.segmentStart)).chargeStretch .producing (now - finish) }.become
            .producing now).startProducing ln.defn now).notify (some l) (st.closedNotice finish .restartConfirmed)
      else s
    | .notScheduled | .planned _ _ | .changeover _ _ | .overrun _ | .unobserved | .producing | .candidate _ | .stopped _ => s

/-- The constraint returns to RUN on a STOPPED line at an instant (R29); a confirmation expiry already reached is taken at once (R23; log 11). -/
def State.startRestart (s : State) (l : Fin 8) (d : LineDef) (st : Stoppage) (r : Tick) : State :=
  (s.updLive l fun lv => lv.become (.restarting st r (r + ticks d.confirmation)) r).confirmRestart l

/-- The constraint leaves RUN on a RESTARTING line at an instant (R31). -/
def State.relapse (s : State) (l : Fin 8) (st : Stoppage) (x : Tick) : State :=
  (s.updLive l fun lv => lv.become (.stopped st) x).walkAgain l

/-- A candidate's promotion expiry is taken (R27). -/
def State.promote (s : State) (l : Fin 8) : State :=
  s.withLive l fun ln lv =>
    match lv.condition with
    | .candidate c =>
      if reached c.promotion s.runClock then
        let number := s.lastStoppage[l] + 1#32
        let st : Stoppage :=
          { number := number, start := c.start
            startPlant := s.plantTime.bind fun t => t.less (s.runClock - c.start).toNat
            carriedIn := c.carriedIn, initial := c.root, root := c.root, segmentStart := c.chargeStart, segments := 1
            longStop := if ln.defn.longStop = 0 then none else some (c.start + ticks ln.defn.longStop)
            notified := false, cap := some (c.start + 2147483647#32), capped := false }
        ((({ s with lastStoppage := s.lastStoppage.set l number }).updLive l fun lv =>
            { lv with condition := .stopped st, period := lv.period.chargePromotion c.root }).notify (some l)
          (.stopOpened number c.start c.root c.carriedIn)).latch .stop
      else s
    | .notScheduled | .planned _ _ | .changeover _ _ | .overrun _ | .unobserved | .producing | .stopped _
    | .restarting _ _ _ => s

/-- Changes the open stoppage of a condition that holds one. -/
def Condition.mapStoppage (f : Stoppage → Stoppage) : Condition → Condition
  | .stopped st => .stopped (f st)
  | .restarting st r c => .restarting (f st) r c
  | .notScheduled => .notScheduled
  | .planned c t => .planned c t
  | .changeover c t => .changeover c t
  | .overrun t => .overrun t
  | .unobserved => .unobserved
  | .producing => .producing
  | .candidate c => .candidate c

/-- The open stoppage a condition holds. -/
def Condition.stoppage? : Condition → Option Stoppage
  | .stopped st => some st
  | .restarting st _ _ => some st
  | .notScheduled | .planned _ _ | .changeover _ _ | .overrun _ | .unobserved | .producing | .candidate _ => none

/-- The candidate stop a condition holds. -/
def Condition.candidate? : Condition → Option Candidate
  | .candidate c => some c
  | .notScheduled | .planned _ _ | .changeover _ _ | .overrun _ | .unobserved | .producing | .stopped _
  | .restarting _ _ _ => none

/-- A stoppage's long-stop expiry is taken, once (R33). -/
def State.takeLongStop (s : State) (l : Fin 8) : State :=
  s.withLive l fun _ lv =>
    match lv.condition.stoppage? with
    | none => s
    | some st =>
      match st.longStop with
      | none => s
      | some e =>
        if st.notified = false ∧ reached e s.runClock = true then
          (s.notify (some l) (.longStop st.number st.root.station st.root.cause)).latch .stop |>.updLive l
            fun lv => { lv with condition := lv.condition.mapStoppage fun st => { st with notified := true } }
        else s

/-- A stoppage's duration cap expiry is taken (R28). -/
def State.takeCap (s : State) (l : Fin 8) : State :=
  s.withLive l fun _ lv =>
    match lv.condition.stoppage? with
    | none => s
    | some st =>
      match st.cap with
      | none => s
      | some e =>
        if reached e s.runClock then
          s.updLive l fun lv => { lv with condition := lv.condition.mapStoppage fun st => { st with cap := none, capped := true } }
        else s

/-- A carried candidate or stoppage is abandoned (R35): the candidate without a trace, the stoppage after its STOP_CLOSED. The caller sets
the condition. -/
def State.abandon (s : State) (l : Fin 8) : State :=
  s.withLive l fun _ lv =>
    match lv.condition.stoppage? with
    | some st => s.notify (some l) (st.closedNotice s.runClock .abandoned)
    | none => s

/-! ## Offers (R20) -/

/-- The constraint leaves RUN on a PRODUCING line at an instant (R24). -/
def State.startCandidate (s : State) (l : Fin 8) (d : LineDef) (x : Tick) : State :=
  let root := s.walk l
  s.updLive l fun lv =>
    (({ lv with period := lv.period.chargeStretch .producing (x - lv.lastChange) }.leaveProducing d s.runClock x).become
      (.candidate (Candidate.begin d root x)) x)

/-- The constraint's return from unseen (R37): the UNOBSERVED stretch ends at the offer tick. -/
def State.endUnobserved (s : State) (l : Fin 8) (d : LineDef) (running : Bool) : State :=
  let now := s.runClock
  let root := s.walk l
  s.updLive l fun lv =>
    let lv := lv.chargeTo now
    if running then (lv.become .producing now).startProducing d now
    else lv.become (.candidate (Candidate.begin d root now)) now

/-- A candidate ends by the constraint's return to RUN at an instant (R26). -/
def State.returnFromCandidate (s : State) (l : Fin 8) (d : LineDef) (c : Candidate) (x : Tick) : State :=
  s.updLive l fun lv => ((lv.resolveCandidate c x).become .producing x).startProducing d x

/-- The Line Tracker takes the offer of an applied report (R10 step 6, table of section 2.9): `x` is the state-change instant carried. -/
def State.offerReport (s : State) (l : Fin 8) (r : Station) (x : Tick) : State :=
  s.withLive l fun ln lv =>
    match ln.mode with
    | .notScheduled | .planned _ _ | .changeover _ _ _ => s
    | .scheduled =>
      let isConstraint := r.constraint
      let running := r.reported == some .run
      match lv.condition with
      | .unobserved => if isConstraint then s.endUnobserved l ln.defn running else s
      | .producing => if isConstraint && !running then s.startCandidate l ln.defn x else s
      | .candidate c => if isConstraint && running then s.returnFromCandidate l ln.defn c x else s.walkAgain l
      | .stopped st => if isConstraint && running then s.startRestart l ln.defn st x else s.walkAgain l
      | .restarting st _ _ => if isConstraint && !running then s.relapse l st x else s
      | .notScheduled | .planned _ _ | .changeover _ _ | .overrun _ => s

/-- The constraint goes unseen at the silent declaration tick (R36). -/
def State.loseConstraint (s : State) (l : Fin 8) (d : LineDef) (lv : Live) : State :=
  let now := s.runClock
  match lv.condition with
  | .producing =>
    s.updLive l fun lv => ((lv.chargeTo now).leaveProducing d now now).become .unobserved now
  | .candidate c => s.updLive l fun lv => (lv.resolveCandidate c now).become .unobserved now
  | .stopped st => (s.closeStoppage l st .constraintUnseen).updLive l (·.become .unobserved now)
  | .restarting st _ _ => (s.closeStoppage l st .constraintUnseen).updLive l (·.become .unobserved now)
  | .notScheduled | .planned _ _ | .changeover _ _ | .overrun _ | .unobserved => s

/-- The Line Tracker takes the offer of a station's becoming SILENT (R12, R36, R38). -/
def State.offerSilent (s : State) (l : Fin 8) (r : Station) : State :=
  s.withLive l fun ln lv =>
    match ln.mode with
    | .notScheduled | .planned _ _ | .changeover _ _ _ => s
    | .scheduled => if r.constraint then s.loseConstraint l ln.defn lv else s.walkAgain l

/-- The Line Tracker takes a bypass change (R6, R38). -/
def State.offerBypass (s : State) (l : Fin 8) : State :=
  s.withLive l fun ln _ =>
    match ln.mode with
    | .notScheduled | .planned _ _ | .changeover _ _ _ => s
    | .scheduled => s.walkAgain l

/-! ## The timers' commands -/

def execPromotionExpiry (l : Fin 8) (s : State) : Host.Outcome State Fault Refusal := .next (s.promote l)

def execConfirmationExpiry (l : Fin 8) (s : State) : Host.Outcome State Fault Refusal := .next (s.confirmRestart l)

def execLongStopExpiry (l : Fin 8) (s : State) : Host.Outcome State Fault Refusal := .next (s.takeLongStop l)

def execDurationCapExpiry (l : Fin 8) (s : State) : Host.Outcome State Fault Refusal := .next (s.takeCap l)

end Sys2Proof.Machine
end

