-- ==== Sys2Proof/Machine/Close.lean ====
section
/-! DEFINITION. Period close, the Period Store and snapshots (chapter 6): the close procedure, CLOSE_PERIOD, AGE_LIMIT, LIST_CLOSED,
READ_CLOSED, RELEASE_CLOSED and READ_OPEN. -/

namespace Sys2Proof.Machine

/-! ## Settling and freezing -/

/-- Step 3 of R112: a present slow accrual start is charged up to the tick. -/
def Period.chargeSlowTo (p : Period) (slowStart : Option Tick) (t : Tick) : Period :=
  match slowStart with
  | some a => p.chargeSlow (t - a)
  | none => p

/-- The slow ticks of a closed period or snapshot: a part of its PRODUCING total, which they never exceed (R85, R108). Charges made before a stop
was placed back may come to more (R83, R88). The charges stand, and the settled figure is bounded: the model's choice (log 28). -/
def Period.boundSlow (p : Period) : Period :=
  { p with slowTicks := if p.classes.producing.toNat < p.slowTicks.toNat then p.classes.producing else p.slowTicks }

/-- The open period settled at a tick (R112, R127): the stations, the line's time, the slow time, in this order; the slow ticks are then within
the PRODUCING total (R108). -/
def Live.settled (lv : Live) (t : Tick) (stations : List Station) : Period :=
  (((lv.period.chargeStations t stations).chargeTo lv.condition lv.lastChange t).chargeSlowTo lv.rate.slowStart t).boundSlow

/-- The settled period frozen into a record (R113); placing it sets DISPLACED. -/
def Live.freeze (lv : Live) (p : Period) (t : Tick) (plant : Option PlantTime) (why : CloseReason) : ClosedRecord :=
  { period := p, closeTick := t, closePlant := plant, reason := why
    outCandidate := lv.condition.candidate?.isSome
    outStoppage := lv.condition.stoppage?.map (·.number)
    windowRunning := lv.rate.window.isSome
    displaced := none }

/-! ## Placing a record -/

/-- The line's list after a placement: of three records the oldest is discarded (R121). -/
def placeIn (held : List ClosedRecord) (r : ClosedRecord) : List ClosedRecord :=
  match held with
  | oldest :: rest =>
    if 3 ≤ held.length then rest ++ [{ r with displaced := some oldest.period.number }] else held ++ [r]
  | [] => [r]

/-- The number of the record that a placement displaces (R121). -/
def displacedBy (held : List ClosedRecord) : Option (BitVec 32) :=
  match held with
  | oldest :: _ => if 3 ≤ held.length then some oldest.period.number else none
  | [] => none

/-- A record is placed in the Period Store, PERIOD_CLOSED is queued and PERIOD latched (R114 steps 1 and 2, R121). -/
def State.place (s : State) (l : Fin 8) (r : ClosedRecord) : State :=
  let held := s.store[l]
  (({ s with store := s.store.set l (placeIn held r) }).notify (some l)
    (.periodClosed r.period.number r.reason (displacedBy held))).latch .period

/-! ## Opening the next period -/

/-- The next period number of a line, from its period counter (R119), with the state that has taken it (log 6). -/
def State.takePeriodNumber (s : State) (l : Fin 8) : BitVec 32 × State :=
  let up := s.countUp s.periodCounter[l].toNat
  let number := BitVec.ofNat 32 up.1
  (number, { up.2 with periodCounter := up.2.periodCounter.set l number })

/-- Every frontier instant of a condition is set to a tick, and a carried candidate or stoppage is marked carried in (R114 step 4, R115, R116). -/
def Condition.carry (t : Tick) : Condition → Condition
  | .notScheduled => .notScheduled
  | .planned cause _ => .planned cause t
  | .changeover cause _ => .changeover cause t
  | .overrun _ => .overrun t
  | .unobserved => .unobserved
  | .producing => .producing
  | .candidate c => .candidate { c with chargeStart := t, carriedIn := true }
  | .stopped st => .stopped { st with segmentStart := t, carriedIn := true }
  | .restarting st r c => .restarting { st with segmentStart := t, carriedIn := true } r c

/-- The live state after a close at a tick, in the period that opens (R114 steps 3 to 5): no timer of the Line Tracker moves. -/
def Live.reopen (lv : Live) (p : Period) (t : Tick) : Live :=
  { lv with
    condition := lv.condition.carry t
    lastChange := t
    rate := { lv.rate with slowStart := lv.rate.slowStart.map fun _ => t }
    period := p
    ageLimit := ageLimitOf t }

/-- Every station of the line accrues from a tick (R16). -/
def State.restartAccruals (s : State) (l : Fin 8) (t : Tick) : State :=
  s.updStationsOf l fun r => { r with accrualStart := some t }

/-- The next period of the line opens (R114 steps 3 to 5), carrying `lv`. -/
def State.openNext (s : State) (l : Fin 8) (ln : Line) (lv : Live) : State :=
  let n := s.takePeriodNumber l
  let p := Period.opened l n.1 s.runClock s.plantTime ln.rehearsal lv.condition.candidate?.isSome lv.condition.stoppage?.isSome
    ln.currentProduct (lineStations s.stations l)
  n.2.setLine l (some { ln with live := some (lv.reopen p s.runClock) })

/-- A close of the line's period at the present tick (R111–R114): settle, freeze, place, open the next. -/
def State.closeLine (s : State) (l : Fin 8) (why : CloseReason) : State :=
  s.withLive l fun ln lv =>
    let t := s.runClock
    let p := lv.settled t (lineStations s.stations l)
    (((s.restartAccruals l t).place l (lv.freeze p t s.plantTime why)).openNext l ln lv)

/-- The open period of the line is empty at the present tick (R117). -/
def State.periodEmpty (s : State) (l : Fin 8) : Bool :=
  match s.live? l with
  | some lv => lv.period.start == s.runClock
  | none => true

/-! ## The resets that follow a close -/

/-- A station record at LINE_RESET or a change of rehearsal, or at entry to MONITORING, at a tick (R8). -/
def Station.restarted (r : Station) (t : Tick) : Station :=
  { r with linkState := .unknown, missRun := 0, goodRun := 0, reported := none, faultCode := 0, reasonCode := 0
           changeInstant := none, lastApplied := none, baselines := none, gap := none, accrualStart := some t }

/-- The condition is set by mode (R64): a SCHEDULED line becomes UNOBSERVED; another keeps its condition. -/
def Line.conditionByMode (ln : Line) (t : Tick) : Line :=
  match ln.mode with
  | .scheduled => { ln with live := ln.live.map (·.become .unobserved t) }
  | .notScheduled | .planned _ _ | .changeover _ _ _ => ln

/-- The effects that LINE_RESET and a change of rehearsal make after the close (R130, R162 steps 3 to 6, R188 steps 2 to 5). -/
def State.resetLine (s : State) (l : Fin 8) : State :=
  let t := s.runClock
  (((s.abandon l).updStationsOf l (·.restarted t)).updLive l fun lv => { lv with rate := RateState.initial }).updLine l
    (·.conditionByMode t)

/-! ## Responses about a close -/

/-- The number of the line's open period. -/
def State.openNumber (s : State) (l : Fin 8) : BitVec 32 := ((s.live? l).map (·.period.number)).getD 0#32

/-- The displaced period number of the line's newest record (R121). -/
def State.newestDisplaced (s : State) (l : Fin 8) : Option (BitVec 32) := (s.store[l].getLast?).bind (·.displaced)

/-- The payload of CLOSE_PERIOD, SET_REHEARSE and LINE_RESET: the period closed, the period opened, the displaced number (R125, R161, R188). -/
def closePayload (closed opened : BitVec 32) (displaced : Option (BitVec 32)) : List Byte :=
  encTick closed ++ encTick opened ++ encOpt 4 encTick displaced

/-! ## CLOSE_PERIOD and AGE_LIMIT -/

/-- CLOSE_PERIOD (R125): line. -/
def closePeriod (p : List Byte) (s : State) : State × Reply :=
  if s.partState = .configuring then (s, .refuse .wrongState)
  else
    match lineNo (u8 p 0) with
    | none => (s, .badValue)
    | some l =>
      match s.line? l with
      | none => (s, .refuse .notFound)
      | some _ =>
        if s.periodEmpty l then (s, .refuse .empty)
        else
          let s' := s.closeLine l .request
          (s', .ok (closePayload (s.openNumber l) (s'.openNumber l) (s'.newestDisplaced l)))

/-- A period's age limit is taken (R118). -/
def State.takeAgeLimit (s : State) (l : Fin 8) : State :=
  s.withLive l fun _ lv => if reached lv.ageLimit s.runClock then s.closeLine l .ageLimit else s

/-! ## The Period Store's requests -/

/-- LIST_CLOSED (R122): line. -/
def listClosed (p : List Byte) (s : State) : State × Reply :=
  match lineNo (u8 p 0) with
  | none => (s, .badValue)
  | some l =>
    (s, .ok (encList (fun r : ClosedRecord =>
      encTick r.period.number ++ enc1 r.reason.code ++ encFlag r.period.rehearsal ++ encFlag r.displaced.isSome ++ enc2 r.length)
      s.store[l]))

/-- The record of a line with a period number. -/
def State.stored (s : State) (l : Fin 8) (number : BitVec 32) : Option ClosedRecord :=
  s.store[l].find? fun r => r.period.number == number

/-- A piece of a record: from an offset, of a length or fewer bytes when the record ends first (R123). -/
def ClosedRecord.piece (r : ClosedRecord) (offset length : Nat) : List Byte := (r.bytes.drop offset).take length

/-- READ_CLOSED (R123): line, period number, offset, length. -/
def readClosed (p : List Byte) (s : State) : State × Reply :=
  let offset := u16 p 5
  let length := u8 p 7
  match lineNo (u8 p 0) with
  | none => (s, .badValue)
  | some l =>
    if length < 1 ∨ 240 < length then (s, .badValue)
    else
      match s.stored l (BitVec.ofNat 32 (u32 p 1)) with
      | none => (s, .refuse .notFound)
      | some r =>
        if r.length ≤ offset then (s, .badValue)
        else (s, .ok (encTick r.period.number ++ enc2 r.length ++ enc2 offset ++ encList (fun b => [b]) (r.piece offset length)))

/-- RELEASE_CLOSED (R124): line, period number. -/
def releaseClosed (p : List Byte) (s : State) : State × Reply :=
  let number := BitVec.ofNat 32 (u32 p 1)
  match lineNo (u8 p 0) with
  | none => (s, .badValue)
  | some l =>
    match s.stored l number with
    | none => (s, .refuse .notFound)
    | some _ => ({ s with store := s.store.set l (s.store[l].eraseP fun r => r.period.number == number) }, .ok)

/-! ## Snapshots -/

/-- The snapshot of a live line at the present tick (R127). -/
def State.snapshotOf (s : State) (l : Fin 8) (lv : Live) : ClosedRecord :=
  lv.freeze (lv.settled s.runClock (lineStations s.stations l)) s.runClock s.plantTime .snapshot

/-- The payload of READ_OPEN (R126, R128): line, period number, snapshot tick, length, offset, bytes. -/
def snapshotPayload (r : ClosedRecord) (offset length : Nat) : List Byte :=
  enc1 r.period.line.val ++ encTick r.period.number ++ encTick r.closeTick ++ enc2 r.length ++ enc2 offset
    ++ encList (fun b => [b]) (r.piece offset length)

/-- READ_OPEN (R126, R128): line, offset, length. -/
def readOpen (p : List Byte) (s : State) : State × Reply :=
  let offset := u16 p 1
  let length := u8 p 3
  match lineNo (u8 p 0) with
  | none => (s, .badValue)
  | some l =>
    if length < 1 ∨ 240 < length then (s, .badValue)
    else if offset = 0 then
      if s.partState = .configuring then (s, .refuse .wrongState)
      else
        match s.live? l with
        | none => (s, .refuse .notFound)
        | some lv =>
          let r := s.snapshotOf l lv
          ({ s with snapshot := some r }, .ok (snapshotPayload r 0 length))
    else
      match s.snapshot with
      | none => (s, .refuse .notFound)
      | some r =>
        if r.period.line = l then
          if r.length ≤ offset then (s, .badValue) else (s, .ok (snapshotPayload r offset length))
        else (s, .refuse .notFound)

def hostClosePeriod (p : List Byte) (s : State) : State := s.request 0x12#8 [1] closePeriod p
def hostListClosed (p : List Byte) (s : State) : State := s.request 0x34#8 [1] listClosed p
def hostReadClosed (p : List Byte) (s : State) : State := s.request 0x35#8 [8] readClosed p
def hostReleaseClosed (p : List Byte) (s : State) : State := s.request 0x36#8 [5] releaseClosed p
def hostReadOpen (p : List Byte) (s : State) : State := s.request 0x37#8 [4] readOpen p

def execClosePeriod (p : List Byte) (s : State) : Host.Outcome State Fault Refusal := .next (hostClosePeriod p s)
def execListClosed (p : List Byte) (s : State) : Host.Outcome State Fault Refusal := .next (hostListClosed p s)
def execReadClosed (p : List Byte) (s : State) : Host.Outcome State Fault Refusal := .next (hostReadClosed p s)
def execReleaseClosed (p : List Byte) (s : State) : Host.Outcome State Fault Refusal := .next (hostReleaseClosed p s)
def execReadOpen (p : List Byte) (s : State) : Host.Outcome State Fault Refusal := .next (hostReadOpen p s)

def execAgeLimit (l : Fin 8) (s : State) : Host.Outcome State Fault Refusal := .next (s.takeAgeLimit l)

end Sys2Proof.Machine
end

