-- ==== Sys2Proof/Machine/Stations.lean ====
section
/-! DEFINITION. The Station Table (chapter 1): line definitions, enrollment, bypass, the applying of reports and misses; DEFINE_LINE,
UNDEFINE_LINE, ENROLL_STATION, REMOVE_STATION, BYPASS_STATION and READ_STATION. -/

namespace Sys2Proof.Machine

/-! ## DEFINE_LINE and UNDEFINE_LINE -/

/-- The eleven fields of a DEFINE_LINE payload: the full form carries all, the short form the first two (R1). -/
def lineDefOf (p : List Byte) : LineDef :=
  if p.length = 3 then
    { initialProduct := u16 p 1, promotion := 3000, longStop := 90000, confirmation := 1000, windowSeconds := 15
      declarePct := 90, clearPct := 95, declareWindows := 3, clearWindows := 2, nominalRate := 0 }
  else
    { initialProduct := u16 p 1, promotion := 100 * u16 p 3, longStop := 100 * u32 p 5, confirmation := 100 * u8 p 9
      windowSeconds := u8 p 10, declarePct := u8 p 11, clearPct := u8 p 12, declareWindows := u8 p 13, clearWindows := u8 p 14
      nominalRate := u32 p 15 }

/-- The number of the first field of a definition that fails, ranges in table order and then the two cross-field conditions (R1). -/
def LineDef.failing (d : LineDef) : Option Nat :=
  if d.promotion < 500 ∨ 60000 < d.promotion then some 3
  else if d.longStop ≠ 0 ∧ (d.longStop < 6000 ∨ 8640000 < d.longStop) then some 4
  else if 12000 < d.confirmation then some 5
  else if d.windowSeconds < 5 ∨ 120 < d.windowSeconds then some 6
  else if d.declarePct < 50 ∨ 99 < d.declarePct then some 7
  else if d.clearPct < 51 ∨ 100 < d.clearPct then some 8
  else if d.declareWindows < 1 ∨ 16 < d.declareWindows then some 9
  else if d.clearWindows < 1 ∨ 16 < d.clearWindows then some 10
  else if 120000 < d.nominalRate then some 11
  else if d.longStop ≠ 0 ∧ d.longStop ≤ d.promotion then some 4
  else if d.clearPct ≤ d.declarePct then some 8
  else none

/-- A line as DEFINE_LINE leaves it (R51, R80, R160): SCHEDULED, its initial product, no rehearsal. -/
def Line.defined (d : LineDef) : Line :=
  { defn := d, rehearsal := false, mode := .scheduled, currentProduct := d.initialProduct, live := none }

/-- DEFINE_LINE (R1, R2). -/
def defineLine (p : List Byte) (s : State) : State × Reply :=
  match s.partState with
  | .monitoring => (s, .refuse .wrongState)
  | .configuring =>
    match lineNo (u8 p 0) with
    | none => (s, .badValue 1)
    | some l =>
      match (lineDefOf p).failing with
      | some field => (s, .badValue field)
      | none => (s.setLine l (some (Line.defined (lineDefOf p))), .ok)

/-- UNDEFINE_LINE (R2): line. -/
def undefineLine (p : List Byte) (s : State) : State × Reply :=
  match s.partState with
  | .monitoring => (s, .refuse .wrongState)
  | .configuring =>
    match lineNo (u8 p 0) with
    | none => (s, .badValue)
    | some l =>
      match s.line? l with
      | none => (s, .refuse .notFound)
      | some _ =>
        if s.stations.any (·.line == l) then (s, .refuse .notEmpty) else (s.setLine l none, .ok)

/-! ## Enrollment -/

/-- A station record as ENROLL_STATION creates it (R8). -/
def Station.enrolled (number : Nat) (link : Fin 4) (address : Nat) (line : Fin 8) (position roles maxRate : Nat) : Station :=
  { number := number, link := link, address := address, line := line, position := position
    constraint := roles.testBit 0, finish := roles.testBit 1, maxRate := maxRate, bypassed := false
    linkState := .unknown, missRun := 0, goodRun := 0, reported := none, faultCode := 0, reasonCode := 0
    changeInstant := none, lastApplied := none, baselines := none, gap := none, accrualStart := none }

/-- Adds a record in its place, in ascending order of station number. -/
def insertStation (r : Station) : List Station → List Station
  | [] => [r]
  | q :: rest => if r.number < q.number then r :: q :: rest else q :: insertStation r rest

/-- Which identity of a new record is already held, tested in the order of R3: 1 the station number, 2 the (link, node address) pair,
3 the (line, position) pair (R183). -/
def collision (stations : List Station) (r : Station) : Option Nat :=
  if stations.any fun q => q.number == r.number then some 1
  else if stations.any fun q => q.link == r.link && q.address == r.address then some 2
  else if stations.any fun q => q.line == r.line && q.position == r.position then some 3
  else none

/-- How many stations are enrolled on a link. -/
def enrolledOn (stations : List Station) (k : Fin 4) : Nat := (stations.filter fun q => q.link == k).length

/-- The ranges of ENROLL_STATION that are not those of link and line (R3). -/
def enrollInRange (p : List Byte) : Bool :=
  u8 p 0 ≤ 95 && (1 ≤ u8 p 2 && u8 p 2 ≤ 31) && (1 ≤ u8 p 4 && u8 p 4 ≤ 16) && u8 p 5 ≤ 3 && (1 ≤ u32 p 6 && u32 p 6 ≤ 120000)

/-- ENROLL_STATION (R3): station number, link, node address, line, position, roles, maximum rate. -/
def enrollStation (p : List Byte) (s : State) : State × Reply :=
  match s.partState with
  | .monitoring => (s, .refuse .wrongState)
  | .configuring =>
    match linkNo (u8 p 1), lineNo (u8 p 3), enrollInRange p with
    | some k, some l, true =>
      let r := Station.enrolled (u8 p 0) k (u8 p 2) l (u8 p 4) (u8 p 5) (u32 p 6)
      match s.line? l with
      | none => (s, .refuse .notFound)
      | some _ =>
        match collision s.stations r with
        | some which => (s, { result := .duplicate, payload := enc1 which })
        | none =>
          if 24 ≤ enrolledOn s.stations k then (s, .refuse .full)
          else ({ s with stations := insertStation r s.stations }, .ok)
    | _, _, _ => (s, .badValue)

/-- REMOVE_STATION (R5): station number. -/
def removeStation (p : List Byte) (s : State) : State × Reply :=
  let n := u8 p 0
  match s.partState with
  | .monitoring => (s, .refuse .wrongState)
  | .configuring =>
    if 95 < n then (s, .badValue)
    else
      match s.station? n with
      | none => (s, .refuse .notFound)
      | some _ => ({ s with stations := s.stations.eraseP fun r => r.number == n }, .ok)

/-- BYPASS_STATION (R6): station number, flag. In CONFIGURING there is no Line Tracker to take the offer. -/
def bypassStation (p : List Byte) (s : State) : State × Reply :=
  let n := u8 p 0
  let flag := u8 p 1
  if 95 < n ∨ 1 < flag then (s, .badValue)
  else
    match s.station? n with
    | none => (s, .refuse .notFound)
    | some r =>
      if flag = 1 ∧ r.constraint = true then (s, .badValue)
      else if r.bypassed = (flag == 1) then (s, .ok)
      else ((s.updStation n fun q => { q with bypassed := flag == 1 }).offerBypass r.line, .ok)

/-! ## READ_STATION -/

/-- A station record's bytes, in the order of R7 (log 9). -/
def Station.bytes (r : Station) : List Byte :=
  enc1 r.number ++ enc1 r.link.val ++ enc1 r.address ++ enc1 r.line.val ++ enc1 r.position
    ++ enc1 (r.constraint.toNat + 2 * r.finish.toNat) ++ enc4 r.maxRate ++ encFlag r.bypassed
    ++ enc1 r.linkState.code ++ enc1 r.missRun ++ enc1 r.goodRun
    ++ encOpt 1 (fun st : ReportedState => enc1 st.code) r.reported ++ enc1 r.faultCode ++ enc1 r.reasonCode
    ++ encOpt 4 encTick r.changeInstant ++ encOpt 4 encTick r.lastApplied
    ++ encOpt 2 (fun c : Counters => enc2 c.infeed.toNat) r.baselines
    ++ encOpt 2 (fun c : Counters => enc2 c.outfeed.toNat) r.baselines
    ++ encOpt 2 (fun c : Counters => enc2 c.reject.toNat) r.baselines
    ++ encOpt 4 encTick r.accrualStart

/-- READ_STATION (R18): station number. -/
def readStation (p : List Byte) (s : State) : State × Reply :=
  let n := u8 p 0
  if 95 < n then (s, .badValue)
  else
    match s.station? n with
    | none => (s, .refuse .notFound)
    | some r => (s, .ok (r.bytes ++ encTick s.runClock))

/-! ## Applying a report -/

/-- The report is a state change of the record (R9). -/
def Station.changedBy (r : Station) (rep : Report) : Bool :=
  match r.reported with
  | none => true
  | some st =>
    st != rep.state || (rep.state == .fault && r.faultCode != rep.code) || (rep.state == .operatorStop && r.reasonCode != rep.code)

/-- The change takes the reported state from RUN to another, or from another to RUN (R17). -/
def Station.runEdge (r : Station) (rep : Report) : Bool :=
  match r.reported with
  | none => false
  | some st => (st == .run) != (rep.state == .run)

/-- How far a report is placed before its arrival tick (R17): its age, clamped by the previous applied report (unless the gap expiry has been
taken since), the line's last condition change instant and the start of the open period. -/
def Station.backdating (r : Station) (rep : Report) (now : Tick) (lv : Option Live) : Nat :=
  let toPrevious :=
    match r.lastApplied with
    | some t => if r.gapTaken then rep.age else (now - t).toNat
    | none => rep.age
  match lv with
  | some lv => min (min rep.age toPrevious) (min (now - lv.lastChange).toNat (now - lv.period.start).toNat)
  | none => min rep.age toPrevious

/-- The state-change instant of a state change (R9, R17): backdated for a RUN edge of a REPORTING constraint, else the arrival tick. -/
def Station.instantOf (r : Station) (rep : Report) (now : Tick) (lv : Option Live) : Tick :=
  if r.constraint && r.linkState == .reporting && r.runEdge rep then now - ticks (r.backdating rep now lv) else now

/-- The record after steps 2 and 3 of R10: reported state and codes (R9), state-change instant, last applied report tick, link state REPORTING
with both runs 0 (R11–R13). -/
def Station.applied (r : Station) (rep : Report) (now instant : Tick) : Station :=
  { r with
    reported := some rep.state
    faultCode := if rep.state = .fault then rep.code else 0
    reasonCode := if rep.state = .operatorStop then rep.code else 0
    changeInstant := if r.changedBy rep then some instant else r.changeInstant
    lastApplied := some now
    linkState := .reporting, missRun := 0, goodRun := 0 }

/-- Re-evaluates a station's category (R15): `old` is the record before the event. A changed category charges the time of the old one. -/
def State.recategorize (s : State) (old new : Station) : State :=
  if old.category = new.category then s
  else
    (s.updLive old.line fun lv => { lv with period := lv.period.chargeStation s.runClock old }).updStation old.number
      fun q => { q with accrualStart := some s.runClock }

/-- Applies a report to a record at the present tick, in the order of R10. -/
def State.applyReport (s : State) (r : Station) (rep : Report) : State :=
  let instant := r.instantOf rep s.runClock (s.live? r.line)
  let new := r.applied rep s.runClock instant
  let s1 := s.updStation r.number fun _ => new
  let s2 := if r.linkState = .silent then s1.notify (some r.line) (.stationReporting r.number s.runClock) else s1
  let s3 := s2.recategorize r new
  let s4 := s3.takeCounters r r.lastApplied rep.counters rep.restart
  if r.changedBy rep || r.linkState != .reporting then s4.offerReport r.line new instant else s4

/-- The link settings of a station: the miss threshold N and the return threshold M are its link's (section 1.5). -/
def State.linkOf (s : State) (r : Station) : Link := s.link r.link

/-- A good reply reaches a station record (R11, R12, R13). -/
def State.goodReply (s : State) (r : Station) (rep : Report) : State :=
  match r.linkState with
  | .unknown | .reporting => s.applyReport r rep
  | .silent =>
    if (s.linkOf r).returnThreshold ≤ r.goodRun + 1 then s.applyReport r rep
    else s.updStation r.number fun q => { q with goodRun := r.goodRun + 1 }

/-- A miss run after one more miss, up to 255 (R11–R13). -/
def missUp (n : Nat) : Nat := min (n + 1) 255

/-- A REPORTING station is declared SILENT at the present tick, in the order of R12. -/
def State.declareSilent (s : State) (r : Station) : State :=
  let new := { r with linkState := .silent, missRun := missUp r.missRun, goodRun := 0 }
  ((((s.updStation r.number fun _ => new).recategorize r new).notify (some r.line)
    (.stationSilent r.number r.lastApplied)).latch .link).offerSilent r.line new

/-- A miss reaches a station record (R11, R12, R13). -/
def State.miss (s : State) (r : Station) : State :=
  match r.linkState with
  | .unknown => s.updStation r.number fun q => { q with missRun := missUp r.missRun }
  | .reporting =>
    if (s.linkOf r).missThreshold ≤ r.missRun + 1 then s.declareSilent r
    else s.updStation r.number fun q => { q with missRun := missUp r.missRun }
  | .silent => s.updStation r.number fun q => { q with missRun := missUp r.missRun, goodRun := 0 }

def hostDefineLine (p : List Byte) (s : State) : State := s.request 0x01#8 [3, 19] defineLine p
def hostUndefineLine (p : List Byte) (s : State) : State := s.request 0x02#8 [1] undefineLine p
def hostEnrollStation (p : List Byte) (s : State) : State := s.request 0x03#8 [10] enrollStation p
def hostRemoveStation (p : List Byte) (s : State) : State := s.request 0x04#8 [1] removeStation p
def hostBypassStation (p : List Byte) (s : State) : State := s.request 0x20#8 [2] bypassStation p
def hostReadStation (p : List Byte) (s : State) : State := s.request 0x21#8 [1] readStation p

def execDefineLine (p : List Byte) (s : State) : Host.Outcome State Fault Refusal := .next (hostDefineLine p s)
def execUndefineLine (p : List Byte) (s : State) : Host.Outcome State Fault Refusal := .next (hostUndefineLine p s)
def execEnrollStation (p : List Byte) (s : State) : Host.Outcome State Fault Refusal := .next (hostEnrollStation p s)
def execRemoveStation (p : List Byte) (s : State) : Host.Outcome State Fault Refusal := .next (hostRemoveStation p s)
def execBypassStation (p : List Byte) (s : State) : Host.Outcome State Fault Refusal := .next (hostBypassStation p s)
def execReadStation (p : List Byte) (s : State) : Host.Outcome State Fault Refusal := .next (hostReadStation p s)

end Sys2Proof.Machine
end

