-- ==== Sys2Proof/Machine/Modes.lean ====
section
/-! DEFINITION. Line modes, planned time and product runs (chapter 3): DECLARE_LINE_MODE, ALLOWANCE_EXPIRY and READ_LINE_STATUS. -/

namespace Sys2Proof.Machine

/-! ## Leaving a mode -/

/-- The settlement of a SCHEDULED line at a declaration (R54): what the Line Tracker holds is charged up to D. The declared mode is entered
next, which replaces the condition. A SCHEDULED line has no declared condition (R20); one would be charged like UNOBSERVED (log 20). -/
def State.settleScheduled (s : State) (l : Fin 8) : State :=
  s.withLive l fun ln lv =>
    let d := s.runClock
    match lv.condition with
    | .unobserved | .notScheduled | .planned _ _ | .changeover _ _ | .overrun _ =>
      s.updLive l fun lv => (lv.chargeTo d).become .unobserved d
    | .producing => s.updLive l fun lv => ((lv.chargeTo d).leaveProducing ln.defn d d).become .unobserved d
    | .candidate c => s.updLive l fun lv => (lv.resolveCandidate c d).become .unobserved d
    | .stopped st => (s.closeStoppage l st .modeDeclared).updLive l (·.become .unobserved d)
    | .restarting st _ _ => (s.closeStoppage l st .modeDeclared).updLive l (·.become .unobserved d)

/-- Ends a NOT_SCHEDULED stretch or a planned segment at the declaration tick (R55 step 1, R57, R61 step 1): charged up to D, and its
frontier stands at D. -/
def State.endDeclared (s : State) (l : Fin 8) : State :=
  s.updLive l fun lv => (lv.chargeTo s.runClock).become (lv.condition.carry s.runClock) s.runClock

/-! ## Entering a mode -/

/-- The condition with which a declared mode starts (R52). -/
def Mode.condition (m : Mode) (d : Tick) : Condition :=
  match m with
  | .scheduled => .unobserved
  | .notScheduled => .notScheduled
  | .planned cause _ => .planned cause d
  | .changeover cause _ _ => .changeover cause d

/-- The allowance expiry that a declared mode sets: none for an allowance of 0 (R55, R58). -/
def Mode.allowanceExpiry (m : Mode) (d : Tick) : Option Tick :=
  match m with
  | .scheduled | .notScheduled => none
  | .planned _ a => if a = 0 then none else some (d + ticks a)
  | .changeover _ _ a => if a = 0 then none else some (d + ticks a)

/-- NOT_SCHEDULED, PLANNED or CHANGEOVER is entered at the declaration tick (R55, R56, R58). -/
def State.enterDeclared (s : State) (l : Fin 8) (m : Mode) : State :=
  let d := s.runClock
  s.updLine l fun ln =>
    { ln with mode := m
              live := ln.live.map fun lv => { lv.become (m.condition d) d with allowanceExpiry := m.allowanceExpiry d } }

/-- The new product of a return from CHANGEOVER is recorded (R67): a run is appended, or the period closes with PRODUCT_LIMIT (R68). -/
def State.recordProduct (s : State) (l : Fin 8) (target : Nat) : State :=
  let s := s.updLine l fun ln => { ln with currentProduct := target }
  s.withLive l fun _ lv =>
    if lv.period.runs.length < 4 then
      s.updLive l fun lv =>
        { lv with period := { lv.period with
            runs := lv.period.runs ++ [{ product := target, start := s.runClock, constraintGood := 0, finishedGood := 0 }] } }
    else s.closeLine l .productLimit

/-- The condition is set from the constraint's record at the declaration tick (R61 step 4). -/
def State.resumeScheduled (s : State) (l : Fin 8) : State :=
  let d := s.runClock
  let root := s.walk l
  s.updLine l fun ln =>
    { ln with
      mode := .scheduled
      live := ln.live.map fun lv =>
        let lv := { lv with allowanceExpiry := none }
        match s.constraint? l with
        | none => lv.become .unobserved d
        | some c =>
          match c.linkState with
          | .unknown | .silent => lv.become .unobserved d
          | .reporting =>
            if c.reported = some .run then (lv.become .producing d).startProducing ln.defn d
            else lv.become (.candidate (Candidate.begin ln.defn root d)) d }

/-- The return to SCHEDULED from `held` (R61). -/
def State.returnScheduled (s : State) (l : Fin 8) (held : Mode) : State :=
  match held with
  | .scheduled => s
  | .notScheduled | .planned _ _ => (s.endDeclared l).resumeScheduled l
  | .changeover _ target _ => ((s.endDeclared l).recordProduct l target).resumeScheduled l

/-- An accepted declaration of a mode at the present tick, by the mode held (table of R53). -/
def State.declare (s : State) (l : Fin 8) (m : Mode) : State :=
  match s.line? l with
  | none => s
  | some ln =>
    match ln.mode, m with
    | .scheduled, .scheduled => s
    | .notScheduled, .notScheduled => s
    | .scheduled, m => (s.settleScheduled l).enterDeclared l m
    | held, .scheduled => s.returnScheduled l held
    | _, m => (s.endDeclared l).enterDeclared l m

/-- The mode that the fields of a request declare, if they are in range (R53 steps 4 and 5). -/
def modeOf (mode cause target seconds : Nat) : Option Mode :=
  let inRange := (1 ≤ cause && cause ≤ 239) && seconds ≤ 86400
  match mode with
  | 0 => some .scheduled
  | 1 => some .notScheduled
  | 2 => if inRange then some (.planned cause (100 * seconds)) else none
  | 3 => if inRange then some (.changeover cause target (100 * seconds)) else none
  | _ => none

/-- DECLARE_LINE_MODE (R53): line, mode, cause, target product, allowance in seconds. -/
def declareLineMode (p : List Byte) (s : State) : State × Reply :=
  if s.partState = .configuring then (s, .refuse .wrongState)
  else
    match lineNo (u8 p 0) with
    | none => (s, .badValue)
    | some l =>
      match s.line? l with
      | none => (s, .refuse .notFound)
      | some _ =>
        match modeOf (u8 p 1) (u8 p 2) (u16 p 3) (u32 p 5) with
        | none => (s, .badValue)
        | some m => (s.declare l m, .ok)

/-! ## The allowance -/

/-- The allowance expiry is taken (R59): the planned segment ends, OVERRUN begins, ALLOWANCE_EXCEEDED is queued. -/
def State.takeAllowance (s : State) (l : Fin 8) : State :=
  s.withLive l fun _ lv =>
    match lv.allowanceExpiry with
    | none => s
    | some e =>
      if reached e s.runClock then
        let overrun := s.updLive l fun lv =>
          { (lv.chargeTo s.runClock).become (.overrun s.runClock) s.runClock with allowanceExpiry := none }
        match lv.condition with
        | .planned cause _ => overrun.notify (some l) (.allowanceExceeded false cause)
        | .changeover cause _ => overrun.notify (some l) (.allowanceExceeded true cause)
        | .notScheduled | .overrun _ | .unobserved | .producing | .candidate _ | .stopped _ | .restarting _ _ _ => s
      else s

/-! ## READ_LINE_STATUS -/

/-- The eleven values of a definition (R1), with the times in seconds. -/
def LineDef.bytes (d : LineDef) (l : Fin 8) : List Byte :=
  enc1 l.val ++ enc2 d.initialProduct ++ enc2 (d.promotion / 100) ++ enc4 (d.longStop / 100) ++ enc1 (d.confirmation / 100)
    ++ enc1 d.windowSeconds ++ enc1 d.declarePct ++ enc1 d.clearPct ++ enc1 d.declareWindows ++ enc1 d.clearWindows
    ++ enc4 d.nominalRate

def Mode.cause? : Mode → Option Nat
  | .planned c _ => some c
  | .changeover c _ _ => some c
  | .scheduled | .notScheduled => none

def Mode.target? : Mode → Option Nat
  | .changeover _ t _ => some t
  | .planned _ _ | .scheduled | .notScheduled => none

def Mode.allowance? : Mode → Option Nat
  | .planned _ a => some a
  | .changeover _ _ a => some a
  | .scheduled | .notScheduled => none

/-- The planned segment's cause, time class and start (R51). -/
def Condition.segment? : Condition → Option (Nat × TimeClass × Tick)
  | .planned c t => some (c, .planned, t)
  | .changeover c t => some (c, .changeover, t)
  | .overrun t => some (248, .overrun, t)
  | .notScheduled | .unobserved | .producing | .candidate _ | .stopped _ | .restarting _ _ _ => none

def Candidate.bytes (c : Candidate) : List Byte :=
  encTick c.start ++ encTick c.chargeStart ++ encFlag c.carriedIn ++ encRoot c.root ++ encTick c.promotion

/-- A stoppage's bytes (R69), with the two instants present in RESTARTING only. -/
def Stoppage.bytes (st : Stoppage) (restart confirm : Option Tick) : List Byte :=
  encTick st.number ++ encTick st.start ++ encPlant st.startPlant ++ encFlag st.carriedIn ++ encRoot st.initial ++ encRoot st.root
    ++ encTick st.segmentStart ++ enc4 st.segments ++ encOpt 4 encTick st.longStop ++ encFlag st.notified
    ++ encOpt 4 encTick st.cap ++ encFlag st.capped ++ encOpt 4 encTick restart ++ encOpt 4 encTick confirm

/-- The candidate and the stoppage of a condition, each an optional record (R69). -/
def Condition.stopBytes : Condition → List Byte
  | .candidate c => encOpt 16 Candidate.bytes (some c) ++ enc1 0 ++ List.replicate 50 0#8
  | .stopped st => enc1 0 ++ List.replicate 16 0#8 ++ enc1 1 ++ st.bytes none none
  | .restarting st r c => enc1 0 ++ List.replicate 16 0#8 ++ enc1 1 ++ st.bytes (some r) (some c)
  | .notScheduled | .planned _ _ | .changeover _ _ | .overrun _ | .unobserved | .producing =>
    enc1 0 ++ List.replicate 16 0#8 ++ enc1 0 ++ List.replicate 50 0#8

def Window.bytes (w : Window) : List Byte :=
  encTick w.start ++ encTick w.expiry ++ enc4 w.expected ++ enc1 w.declarePct ++ enc1 w.clearPct ++ enc4 w.actual

/-- The slow state and the rate window, in the order of R80. -/
def RateState.bytes (r : RateState) : List Byte :=
  encFlag r.slow ++ enc1 r.lowRun ++ enc1 r.highRun ++ encOpt 18 Window.bytes r.window ++ encOpt 4 encTick r.slowStart
    ++ encOpt 4 (fun x : Nat × Nat => enc4 x.1) r.last ++ encOpt 4 (fun x : Nat × Nat => enc4 x.2) r.last

/-- The open period's number, start tick, rehearsal flag and number of runs (R69). That the number of runs has one byte, not a count's four,
is the model's choice (R191; log 9). -/
def Period.statusBytes (p : Period) : List Byte :=
  encTick p.number ++ encTick p.start ++ encFlag p.rehearsal ++ enc1 p.runs.length

/-- The payload of READ_LINE_STATUS (R69). That the open period's four items share one presence byte, and the condition and its last change
instant have one each, is the model's choice (log 9). In CONFIGURING the rate state reads as R80 gives it there. -/
def State.statusPayload (s : State) (l : Fin 8) (ln : Line) : List Byte :=
  ln.defn.bytes l ++ enc1 ln.mode.code ++ encOpt 1 enc1 ln.mode.cause? ++ encOpt 2 enc2 ln.mode.target?
    ++ encOpt 4 enc4 ln.mode.allowance? ++ encOpt 4 encTick (ln.live.bind (·.allowanceExpiry)) ++ enc2 ln.currentProduct
    ++ encOpt 6 (fun x : Nat × TimeClass × Tick => enc1 x.1 ++ enc1 x.2.1.code ++ encTick x.2.2)
        (ln.live.bind (·.condition.segment?))
    ++ encOpt 1 (fun lv : Live => enc1 lv.condition.code) ln.live ++ encOpt 4 (fun lv : Live => encTick lv.lastChange) ln.live
    ++ ((ln.live.map Live.condition).getD Condition.unobserved).stopBytes
    ++ encTick s.lastStoppage[l]
    ++ ((ln.live.map Live.rate).getD RateState.initial).bytes
    ++ encOpt 10 (fun lv : Live => lv.period.statusBytes) ln.live
    ++ encTick s.runClock

/-- READ_LINE_STATUS (R69): line. -/
def readLineStatus (p : List Byte) (s : State) : State × Reply :=
  match lineNo (u8 p 0) with
  | none => (s, .badValue)
  | some l =>
    match s.line? l with
    | none => (s, .refuse .notFound)
    | some ln => (s, .ok (s.statusPayload l ln))

def hostDeclareLineMode (p : List Byte) (s : State) : State := s.request 0x10#8 [9] declareLineMode p
def hostReadLineStatus (p : List Byte) (s : State) : State := s.request 0x22#8 [1] readLineStatus p

def execDeclareLineMode (p : List Byte) (s : State) : Host.Outcome State Fault Refusal := .next (hostDeclareLineMode p s)
def execReadLineStatus (p : List Byte) (s : State) : Host.Outcome State Fault Refusal := .next (hostReadLineStatus p s)

def execAllowanceExpiry (l : Fin 8) (s : State) : Host.Outcome State Fault Refusal := .next (s.takeAllowance l)

end Sys2Proof.Machine
end

