-- ==== Sys2Proof/Machine/CauseMap.lean ====
section
/-! DEFINITION. The Cause Map (section 2.8): MAP_CAUSE, UNMAP_CAUSE and READ_MAP. -/

namespace Sys2Proof.Machine

/-- The place of an entry in key order (R45): station key (ANY is 255, after 0 to 95), then code kind, then code. -/
def CauseEntry.rank (e : CauseEntry) : Nat := 131072 * e.station + 65536 * e.kind.code + e.code

/-- Two entries have the same key (R45). -/
def CauseEntry.sameKey (a b : CauseEntry) : Bool := a.station == b.station && a.kind == b.kind && a.code == b.code

/-- Adds an entry in its place in key order (R47). -/
def insertCause (e : CauseEntry) : List CauseEntry → List CauseEntry
  | [] => [e]
  | q :: rest => if e.rank < q.rank then e :: q :: rest else q :: insertCause e rest

/-- The station key of a byte: a station number, or FFh for ANY (R191). -/
def stationKey (n : Nat) : Option Nat := if n ≤ 95 ∨ n = 255 then some n else none

/-- The key that three fields name, if they are in range (R47 step 1). -/
def causeKey (p : List Byte) : Option (Nat × CodeKind × Nat) :=
  match stationKey (u8 p 0), CodeKind.ofCode (u8 p 1) with
  | some k, some .fault => some (k, .fault, u8 p 2)
  | some k, some .operator => if u8 p 2 = 0 then none else some (k, .operator, u8 p 2)
  | _, none | none, _ => none

/-- The entry that a MAP_CAUSE payload carries, if its fields are in range (R47 step 1). -/
def causeEntryOf (p : List Byte) : Option CauseEntry :=
  match causeKey p, CauseClass.ofMapCode (u8 p 4) with
  | some (k, kind, code), some cls =>
    if 1 ≤ u8 p 3 ∧ u8 p 3 ≤ 239 then some { station := k, kind := kind, code := code, cause := u8 p 3, cls := cls } else none
  | _, none | none, _ => none

/-- The Cause Map holds this many entries at most (R45). -/
def causeCapacity : Nat := 512

/-- MAP_CAUSE (R47): station key, code kind, code, cause number, class. -/
def mapCause (p : List Byte) (s : State) : State × Reply :=
  match causeEntryOf p with
  | none => (s, .badValue)
  | some e =>
    if s.causeMap.any (·.sameKey e) then ({ s with causeMap := modifyFirst (·.sameKey e) (fun _ => e) s.causeMap }, .ok)
    else if causeCapacity ≤ s.causeMap.length then (s, .refuse .full)
    else ({ s with causeMap := insertCause e s.causeMap }, .ok)

/-- UNMAP_CAUSE (R48): station key, code kind, code. -/
def unmapCause (p : List Byte) (s : State) : State × Reply :=
  match causeKey p with
  | none => (s, .badValue)
  | some (k, kind, code) =>
    match mapEntry s.causeMap k kind code with
    | none => (s, .refuse .notFound)
    | some e => ({ s with causeMap := s.causeMap.eraseP (·.sameKey e) }, .ok)

def CauseEntry.bytes (e : CauseEntry) : List Byte :=
  enc1 e.station ++ enc1 e.kind.code ++ enc1 e.code ++ enc1 e.cause ++ enc1 e.cls.code

/-- READ_MAP (R49): start index. That the number of entries held has two bytes, not a count's four, is the model's choice (R191; log 9). -/
def readMap (p : List Byte) (s : State) : State × Reply :=
  let start := u16 p 0
  if 511 < start then (s, .badValue)
  else (s, .ok (enc2 s.causeMap.length ++ enc2 start ++ encList CauseEntry.bytes ((s.causeMap.drop start).take 32)))

def hostMapCause (p : List Byte) (s : State) : State := s.request 0x23#8 [5] mapCause p
def hostUnmapCause (p : List Byte) (s : State) : State := s.request 0x24#8 [3] unmapCause p
def hostReadMap (p : List Byte) (s : State) : State := s.request 0x25#8 [2] readMap p

def execMapCause (p : List Byte) (s : State) : Host.Outcome State Fault Refusal := .next (hostMapCause p s)
def execUnmapCause (p : List Byte) (s : State) : Host.Outcome State Fault Refusal := .next (hostUnmapCause p s)
def execReadMap (p : List Byte) (s : State) : Host.Outcome State Fault Refusal := .next (hostReadMap p s)

end Sys2Proof.Machine
end

