-- ==== Sys2Proof/Machine/Clock.lean ====
section
/-! DEFINITION. The Time Base (chapter 7): the Run Clock, the Plant Clock and the Period Triggers; RUN_CLOCK_TICK, PLANT_SECOND_ADVANCE,
PLANT_CLOCK_LIMIT, TRIGGER_EXPIRY, LOAD_CLOCK, STEP_CLOCK, READ_CLOCK, ARM_TRIGGER, DISARM_TRIGGER and READ_TRIGGERS. -/

namespace Sys2Proof.Machine

/-! ## The clocks' own advance -/

/-- The Run Clock advances by 1, modulo 2^32; it is held at 0 while RESET# is low (R131, R189). -/
def State.tickRunClock (s : State) : State :=
  match s.resetPhase with
  | .held => s
  | .startUp | .running => { s with runClock := s.runClock + 1 }

/-- 100 ticks have passed since the second boundary (R132). -/
def PlantClock.secondOver (p : PlantClock) (now : Tick) : Bool := 100 ≤ (now - p.boundary).toNat

/-- The plant seconds advance (R132). -/
def State.advancePlant (s : State) : State :=
  match s.plant with
  | none => s
  | some p =>
    if p.secondOver s.runClock ∧ p.seconds < maxCount then
      { s with plant := some { seconds := p.seconds + 1, boundary := p.boundary + 100#32 } }
    else s

/-- The Plant Clock reaches its limit and becomes unset (R136). -/
def State.limitPlant (s : State) : State :=
  match s.plant with
  | none => s
  | some p => if p.secondOver s.runClock ∧ maxCount ≤ p.seconds then { s with plant := none } else s

/-! ## The expiry of a trigger (R139) -/

/-- The line qualifies to be closed by a trigger: MONITORING, defined, and its open period is not empty. -/
def State.qualifies (s : State) (l : Fin 8) : Bool :=
  s.partState == .monitoring && (s.line? l).isSome && !s.periodEmpty l

/-- One line of a trigger's set, in its turn; the second item gathers the lines closed. -/
def closeOne (set : BitVec 8) (a : State × BitVec 8) (l : Fin 8) : State × BitVec 8 :=
  if set.getLsbD l.val && a.1.qualifies l then (a.1.closeLine l .trigger, a.2 ||| (1#8 <<< l.val)) else a

/-- Step 1: the closes of a trigger's lines, in ascending order, with the set of the lines closed. -/
def State.closeSet (s : State) (set : BitVec 8) : State × BitVec 8 := allLines.foldl (closeOne set) (s, 0#8)

/-- The intervals that take a repeating trigger's time past the plant seconds (R139 step 2). -/
def intervalsPast (time interval seconds : Nat) : Nat := (seconds - time) / interval + 1

/-- The intervals skipped at an expiry: one less than the intervals advanced, and 0 for a one-shot trigger. -/
def Trigger.skippedAt (t : Trigger) (seconds : Nat) : Nat :=
  if t.interval = 0 then 0 else intervalsPast t.time t.interval seconds - 1

/-- Steps 2 and 3: the next time, the skipped count, the last fired plant time. Where the next time would pass 4,294,967,295 the trigger
becomes SPENT and keeps its time (log 14). -/
def Trigger.fired (t : Trigger) (seconds : Nat) (at_ : Option PlantTime) : Trigger :=
  let next := t.time + t.interval * intervalsPast t.time t.interval seconds
  let t := { t with lastFired := at_, skipped := satAdd t.skipped (t.skippedAt seconds) }
  if t.interval = 0 ∨ maxCount < next then { t with state := .spent } else { t with time := next }

/-- A trigger expires at the present tick (R139): `moved` for an expiry caused by a move of the clock. -/
def State.fireTrigger (s : State) (k : Fin 8) (seconds : Nat) (moved : Bool) : State :=
  let t := s.trigger k
  let closed := s.closeSet t.lines
  ((closed.1.updTrigger k fun t => t.fired seconds s.plantTime).notify none
    (.triggerFired k closed.2 (t.lines &&& ~~~closed.2) (t.skippedAt seconds) moved)).latch .clock

/-- An ARMED trigger's time has been reached by the clock's advance (R139). -/
def State.takeTriggerExpiry (s : State) (k : Fin 8) : State :=
  match s.plantNow with
  | none => s
  | some p =>
    if (s.trigger k).state = .armed ∧ (s.trigger k).time ≤ p.seconds then s.fireTrigger k p.seconds false else s

/-! ## Moves of the Plant Clock (R140) -/

/-- One trigger examined at a move to `seconds`; the second item gathers the triggers whose expiry the move caused. -/
def examineOne (seconds : Nat) (a : State × BitVec 8) (k : Fin 8) : State × BitVec 8 :=
  if (a.1.trigger k).state = .armed ∧ (a.1.trigger k).time ≤ seconds then
    (a.1.fireTrigger k seconds true, a.2 ||| (1#8 <<< k.val))
  else a

/-- The clock is moved from `old` seconds to a new value, and each ARMED trigger is examined, in ascending order: a backward move changes
none, a move that is not backward causes the expiry of those it reaches (R140, R142; log 15). -/
def State.movePlant (s : State) (old : Nat) (new : PlantClock) : State × BitVec 8 :=
  let s' := { s with plant := some new }
  if old ≤ new.seconds then allTriggers.foldl (examineOne new.seconds) (s', 0#8) else (s', 0#8)

/-- LOAD_CLOCK (R134): plant seconds. -/
def loadClock (p : List Byte) (s : State) : State × Reply :=
  let new : PlantClock := { seconds := u32 p 0, boundary := s.runClock }
  match s.plantNow with
  | none => ({ s with plant := some new }, .ok (enc1 0))
  | some old =>
    let m := s.movePlant old.seconds new
    (m.1, .ok (enc1 m.2.toNat))

/-- STEP_CLOCK (R135): signed offset in seconds. -/
def stepClock (p : List Byte) (s : State) : State × Reply :=
  let offset := s32 p 0
  if offset < -604800 ∨ 604800 < offset then (s, .badValue)
  else
    match s.plantNow with
    | none => (s, .refuse .clockUnset)
    | some old =>
      let target := (old.seconds : Int) + offset
      if target < 0 ∨ 4294967295 < target then (s, .badValue)
      else if offset = 0 then (s, .ok (enc1 0))
      else
        let m := s.movePlant old.seconds { old with seconds := target.toNat }
        (m.1, .ok (enc1 m.2.toNat))

/-- READ_CLOCK (R137). -/
def readClock (_ : List Byte) (s : State) : State × Reply :=
  (s, .ok (encFlag s.plantTime.isSome ++ encPlant s.plantTime ++ encTick s.runClock))

/-! ## Trigger requests -/

/-- The fields of ARM_TRIGGER that have a range are in it (R138 step 1). -/
def armInRange (p : List Byte) : Bool :=
  (u32 p 5 == 0 || (60 ≤ u32 p 5 && u32 p 5 ≤ 604800)) && u8 p 9 != 0

/-- A trigger as ARM_TRIGGER leaves it (R138). -/
def Trigger.armedBy (p : List Byte) : Trigger :=
  { state := .armed, time := u32 p 1, interval := u32 p 5, lines := BitVec.ofNat 8 (u8 p 9), lastFired := none, skipped := 0 }

/-- ARM_TRIGGER (R138): trigger, time, repeat interval, line set. -/
def armTrigger (p : List Byte) (s : State) : State × Reply :=
  match lineNo (u8 p 0), armInRange p with
  | some k, true =>
    match s.plantNow with
    | none => (s, .refuse .clockUnset)
    | some c =>
      if u32 p 1 ≤ c.seconds then (s, .refuse .late)
      else (s.updTrigger k fun _ => Trigger.armedBy p, .ok)
  | none, _ | some _, false => (s, .badValue)

/-- DISARM_TRIGGER (R141): trigger. -/
def disarmTrigger (p : List Byte) (s : State) : State × Reply :=
  match lineNo (u8 p 0) with
  | none => (s, .badValue)
  | some k => (s.updTrigger k fun t => { t with state := .disarmed }, .ok)

/-- A trigger's fields, in the order of R138. -/
def Trigger.bytes (t : Trigger) : List Byte :=
  enc1 t.state.code ++ enc4 t.time ++ enc4 t.interval ++ enc1 t.lines.toNat ++ encPlant t.lastFired ++ enc4 t.skipped

/-- READ_TRIGGERS (R141): all eight triggers, the set flag and plant seconds, the Run Clock (log 9). -/
def readTriggers (_ : List Byte) (s : State) : State × Reply :=
  (s, .ok (encList Trigger.bytes s.triggers.toList ++ encFlag s.plantNow.isSome ++ enc4 ((s.plantNow.map (·.seconds)).getD 0)
    ++ encTick s.runClock))

def hostLoadClock (p : List Byte) (s : State) : State := s.request 0x28#8 [4] loadClock p
def hostStepClock (p : List Byte) (s : State) : State := s.request 0x29#8 [4] stepClock p
def hostReadClock (p : List Byte) (s : State) : State := s.request 0x2A#8 [0] readClock p
def hostArmTrigger (p : List Byte) (s : State) : State := s.request 0x2B#8 [10] armTrigger p
def hostDisarmTrigger (p : List Byte) (s : State) : State := s.request 0x2C#8 [1] disarmTrigger p
def hostReadTriggers (p : List Byte) (s : State) : State := s.request 0x2D#8 [0] readTriggers p

def execRunClockTick (s : State) : Host.Outcome State Fault Refusal := .next s.tickRunClock
def execPlantSecondAdvance (s : State) : Host.Outcome State Fault Refusal := .next s.advancePlant
def execPlantClockLimit (s : State) : Host.Outcome State Fault Refusal := .next s.limitPlant
def execTriggerExpiry (k : Fin 8) (s : State) : Host.Outcome State Fault Refusal := .next (s.takeTriggerExpiry k)

def execLoadClock (p : List Byte) (s : State) : Host.Outcome State Fault Refusal := .next (hostLoadClock p s)
def execStepClock (p : List Byte) (s : State) : Host.Outcome State Fault Refusal := .next (hostStepClock p s)
def execReadClock (p : List Byte) (s : State) : Host.Outcome State Fault Refusal := .next (hostReadClock p s)
def execArmTrigger (p : List Byte) (s : State) : Host.Outcome State Fault Refusal := .next (hostArmTrigger p s)
def execDisarmTrigger (p : List Byte) (s : State) : Host.Outcome State Fault Refusal := .next (hostDisarmTrigger p s)
def execReadTriggers (p : List Byte) (s : State) : Host.Outcome State Fault Refusal := .next (hostReadTriggers p s)

end Sys2Proof.Machine
end

