-- ==== Sys2Proof/Machine/Links.lean ====
section
/-! DEFINITION. The Field Link Controllers (chapter 8): rounds, poll slots, outcomes, link states, polarity and statistics; SET_LINK,
READ_LINK_STATS and the field link events. The end of each sub-tick interval is an event that the sender sends (log 18). -/

namespace Sys2Proof.Machine

/-! ## Rounds -/

/-- The slot list of a round (R146): address slots in ascending order of node address, and after the first half of them the constraints'
mid-round slots. -/
def slotList (stations : List Station) (k : Fin 4) : List Nat :=
  let rs := linkStations stations k
  let half := rs.length / 2
  ((rs.take half) ++ rs.filter (·.constraint) ++ rs.drop half).map (·.number)

/-- A round that starts at a tick (R145, R146): the first slot's idle check begins. -/
def Round.starting (slots : List Nat) (t : Tick) : Round :=
  { start := t, slots := slots, next := 0, validSeen := false, phase := .idleCheck }

/-- The link starts a round at the present tick (R147). -/
def State.beginRound (s : State) (k : Fin 4) : State :=
  s.updLink k fun L => { L with round := some (Round.starting (slotList s.stations k) s.runClock), nextRound := none }

/-- ROUND_START (R147): the link polls, no round is in progress, and the instant before which the next round does not start is reached. -/
def State.takeRoundStart (s : State) (k : Fin 4) : State :=
  match (s.link k).round, (s.link k).nextRound with
  | none, some t => if (s.link k).state ≠ .idle ∧ reached t s.runClock = true then s.beginRound k else s
  | none, none | some _, _ => s

/-- The later of two instants of which the second is the present tick (R147). -/
def laterOfNow (t now : Tick) : Tick := if reached t now then now else t

/-- The link becomes FAULT with a reason: dead rounds 0, LINK_FAULT, attention LINK (R153, R155). -/
def State.faultLink (s : State) (k : Fin 4) (why : LinkFault) : State :=
  ((s.updLink k fun L => { L with state := .fault why, deadRounds := 0 }).notify none (.linkFault k why)).latch .link

def Polarity.flip : Polarity → Polarity
  | .normal => .swapped
  | .swapped => .normal

/-- A flip of the polarity in force, counted in the statistics (R154). -/
def Link.flip (L : Link) : Link :=
  { L with polarity := L.polarity.flip, stats := { L.stats with flips := satAdd L.stats.flips 1 } }

/-- A dead round of a hunt (R153, R154). -/
def State.deadHunt (s : State) (k : Fin 4) : State :=
  let n := (s.link k).deadRounds + 1
  match (s.link k).polarityMode with
  | .auto =>
    if n = 3 then
      let L := (s.link k).flip
      (s.updLink k fun _ => { L with deadRounds := n }).notify none (.linkPolarity k L.polarity)
    else if 6 ≤ n then s.faultLink k .noReplies
    else s.updLink k fun L => { L with deadRounds := n }
  | .normal | .swapped => if 3 ≤ n then s.faultLink k .noReplies else s.updLink k fun L => { L with deadRounds := n }

/-- A dead round of a link in FAULT (R153, R154). -/
def State.deadFault (s : State) (k : Fin 4) : State :=
  let n := (s.link k).deadRounds + 1
  match (s.link k).polarityMode with
  | .auto =>
    if 3 ≤ n then s.updLink k fun L => { L.flip with deadRounds := 0 } else s.updLink k fun L => { L with deadRounds := n }
  | .normal | .swapped => s

/-- What the completion of a dead round does, by the link's state (R153). -/
def State.deadRound (s : State) (k : Fin 4) : State :=
  match (s.link k).state with
  | .active => s.faultLink k .noReplies
  | .hunt => s.deadHunt k
  | .fault _ => s.deadFault k
  | .idle => s

/-- A round completes (R153): a live round changes nothing; the record is discarded, and the next round starts at the later of this tick and
the start plus the pace (R147). -/
def State.completeRound (s : State) (k : Fin 4) (r : Round) : State :=
  (if r.validSeen then s else s.deadRound k).updLink k fun L =>
    { L with round := none, nextRound := some (laterOfNow (r.start + ticks L.pace) s.runClock) }

/-- The slot in progress is over: the next slot's idle check begins, or the round completes (R147, R148). -/
def State.nextSlot (s : State) (k : Fin 4) : State :=
  match (s.link k).round with
  | none => s
  | some r =>
    if r.next + 1 < r.slots.length then
      s.updLink k fun L => { L with round := some { r with next := r.next + 1, phase := .idleCheck } }
    else s.completeRound k r

/-! ## A poll slot -/

/-- The station that the slot in progress names. -/
def State.slotStation (s : State) (r : Round) : Option Station := r.slots[r.next]?.bind s.station?

/-- Puts the slot in progress into a phase. -/
def State.setPhase (s : State) (k : Fin 4) (p : SlotPhase) : State :=
  s.updLink k fun L => { L with round := L.round.map fun r => { r with phase := p } }

/-- FnDE is driven while the poll telegram is sent (R149). -/
def Link.driverEnabled (L : Link) : Bool :=
  match L.round with
  | none => false
  | some r =>
    match r.phase with
    | .sendingPoll _ => true
    | .idleCheck | .replyWait | .receiving _ _ => false

/-- IDLE_CHECK_EXPIRY: the pair was idle, and it is driven with the poll, in the polarity in force; the busy run becomes 0 (R148, R149, R154,
R194; log 13). -/
def State.takeIdleCheck (s : State) (k : Fin 4) : State :=
  match (s.link k).round with
  | none => s
  | some r =>
    match r.phase, s.slotStation r with
    | .idleCheck, some st =>
      (s.setPhase k (.sendingPoll ((pollTelegram st.address).map (s.link k).polarity.drive))).updLink k fun L =>
        { L with busyRun := 0 }
    | .idleCheck, none | .sendingPoll _, _ | .replyWait, _ | .receiving _ _, _ => s

/-- The BUS_STUCK condition is met (R155). -/
def State.busStuck (s : State) (k : Fin 4) : State :=
  match (s.link k).state with
  | .hunt | .active => s.faultLink k .busStuck
  | .fault .noReplies =>
    ((s.updLink k fun L => { L with state := .fault .busStuck }).notify none (.linkFault k .busStuck)).latch .link
  | .fault .busStuck | .idle => s

/-- The counts of a busy skip (R148, R156). -/
def Link.skipBusy (L : Link) : Link :=
  { L with busyRun := min (L.busyRun + 1) 255, stats := { L.stats with busySkips := satAdd L.stats.busySkips 1 } }

/-- SKIPPED_BUSY: a start bit is seen in the idle check, in the polarity in force (R148, R154). The tenth consecutive skip meets BUS_STUCK
(R155). -/
def State.takeBusy (s : State) (k : Fin 4) (level : Pair Bool) : State :=
  match (s.link k).round with
  | none => s
  | some r =>
    match r.phase with
    | .idleCheck =>
      if (s.link k).polarity.seesStart level then
        let s := s.updLink k Link.skipBusy
        (if (s.link k).busyRun = 10 then s.busStuck k else s).nextSlot k
      else s
    | .sendingPoll _ | .replyWait | .receiving _ _ => s

/-- POLL_SENT: the poll ends and the reply wait begins (R149). -/
def State.takePollSent (s : State) (k : Fin 4) : State :=
  match (s.link k).round with
  | none => s
  | some r =>
    match r.phase with
    | .sendingPoll _ => s.setPhase k .replyWait
    | .idleCheck | .replyWait | .receiving _ _ => s

/-! ## Outcomes (R150–R152) -/

def SlotOutcome.isValid : SlotOutcome → Bool
  | .timeout | .checkError => false
  | .contentError | .good _ => true

/-- The statistics at an outcome (R156): one poll sent, and one of its kind. -/
def LinkStats.count (t : LinkStats) (o : SlotOutcome) : LinkStats :=
  let t := { t with pollsSent := satAdd t.pollsSent 1 }
  match o with
  | .timeout => { t with timeouts := satAdd t.timeouts 1 }
  | .checkError => { t with checkErrors := satAdd t.checkErrors 1 }
  | .contentError => { t with contentErrors := satAdd t.contentErrors 1 }
  | .good _ => { t with goodReplies := satAdd t.goodReplies 1 }

/-- The link-state effects of a valid reply (R152). -/
def State.validReply (s : State) (k : Fin 4) : State :=
  match (s.link k).state with
  | .hunt => s.updLink k fun L => { L with state := .active, deadRounds := 0 }
  | .fault _ =>
    (s.updLink k fun L => { L with state := .active, deadRounds := 0 }).notify none (.linkCleared k (s.link k).polarity)
  | .active | .idle => s

/-- The round's valid-seen flag is set (R150). -/
def State.markValid (s : State) (k : Fin 4) : State :=
  s.updLink k fun L => { L with round := L.round.map fun r => { r with validSeen := true } }

/-- An outcome reaches the Station Table unless the station's line is rehearsing (R151). -/
def State.handOver (s : State) (n : Nat) (o : SlotOutcome) : State :=
  match s.station? n with
  | none => s
  | some r =>
    if s.rehearsing r.line then s
    else
      match o with
      | .good rep => s.goodReply r rep
      | .timeout | .checkError | .contentError => s.miss r

/-- A slot's outcome is taken (R150): the statistics, the valid-seen flag and link state, the Station Table; then the next slot. -/
def State.takeOutcome (s : State) (k : Fin 4) (n : Nat) (o : SlotOutcome) : State :=
  let s := s.updLink k fun L => { L with stats := L.stats.count o }
  let s := if o.isValid then (s.markValid k).validReply k else s
  (s.handOver n o).nextSlot k

/-- REPLY_WAIT_EXPIRY: no reply has begun, a timeout (R149, R150). -/
def State.takeReplyWait (s : State) (k : Fin 4) : State :=
  match (s.link k).round with
  | none => s
  | some r =>
    match r.phase, s.slotStation r with
    | .replyWait, some st => s.takeOutcome k st.number .timeout
    | .replyWait, none | .idleCheck, _ | .sendingPoll _, _ | .receiving _ _, _ => s

/-- REPLY_CHARACTER_RECEIVED: a character other than the 14th begins, which ends the reply wait or the character gap, or ends.
The pair is read in the polarity in force (R149, R154, R194; log 16). -/
def State.takeReplyChar (s : State) (k : Fin 4) (edge : CharEdge) : State :=
  match (s.link k).round with
  | none => s
  | some r =>
    match edge, r.phase with
    | .begins level, .replyWait => if (s.link k).polarity.seesStart level then s.setPhase k (.receiving [] true) else s
    | .begins level, .receiving cs false =>
      if cs.length < 13 ∧ (s.link k).polarity.seesStart level = true then s.setPhase k (.receiving cs true) else s
    | .ends w, .receiving cs true => s.setPhase k (.receiving (cs ++ [(s.link k).polarity.read w]) false)
    | .begins _, .receiving _ true | .begins _, .idleCheck | .begins _, .sendingPoll _ | .ends _, .receiving _ false
    | .ends _, .replyWait | .ends _, .idleCheck | .ends _, .sendingPoll _ => s

/-- REPLY_RECEIVED: the 14th character ends the reply, which is judged as read in the polarity in force (R149, R150, R154, R194; log 16). -/
def State.takeReply (s : State) (k : Fin 4) (last : Pair Byte) : State :=
  match (s.link k).round with
  | none => s
  | some r =>
    match r.phase, s.slotStation r with
    | .receiving cs false, some st =>
      if cs.length = 13 then s.takeOutcome k st.number (judgeReply st.address (cs ++ [(s.link k).polarity.read last])) else s
    | .receiving _ false, none | .receiving _ true, _ | .idleCheck, _ | .sendingPoll _, _ | .replyWait, _ => s

/-- REPLY_GAP_EXPIRY: the character gap expires before the 14th character, and the short reply is a check error (R149, R150). -/
def State.takeReplyGap (s : State) (k : Fin 4) : State :=
  match (s.link k).round with
  | none => s
  | some r =>
    match r.phase, s.slotStation r with
    | .receiving _ false, some st => s.takeOutcome k st.number .checkError
    | .receiving _ false, none | .receiving _ true, _ | .idleCheck, _ | .sendingPoll _, _ | .replyWait, _ => s

/-! ## SET_LINK and READ_LINK_STATS -/

/-- The number of the first field of SET_LINK that is out of range (R144), beyond the link number and the two enumerations. -/
def setLinkFailing (p : List Byte) : Option Nat :=
  if 3 < u8 p 0 then some 1
  else if (BitRate.ofBps (u32 p 1)).isNone then some 2
  else if (PolarityMode.ofCode (u8 p 5)).isNone then some 3
  else if u16 p 6 % 10 ≠ 0 ∨ u16 p 6 < 10 ∨ 2000 < u16 p 6 then some 4
  else if u8 p 8 < 2 ∨ 15 < u8 p 8 then some 5
  else if u8 p 9 < 1 ∨ 8 < u8 p 9 then some 6
  else none

/-- The polarity in force after SET_LINK of a polarity mode (R144). -/
def PolarityMode.inForce (m : PolarityMode) (held : Polarity) : Polarity :=
  match m with
  | .normal => .normal
  | .swapped => .swapped
  | .auto => held

/-- SET_LINK (R144): link, bit rate, polarity mode, pace in milliseconds, miss threshold, return threshold. -/
def setLink (p : List Byte) (s : State) : State × Reply :=
  match s.partState with
  | .monitoring => (s, .refuse .wrongState)
  | .configuring =>
    match setLinkFailing p with
    | some field => (s, .badValue field)
    | none =>
      match linkNo (u8 p 0), BitRate.ofBps (u32 p 1), PolarityMode.ofCode (u8 p 5) with
      | some k, some rate, some mode =>
        (s.updLink k fun L =>
          { L with bitRate := rate, polarityMode := mode, pace := u16 p 6 / 10, missThreshold := u8 p 8, returnThreshold := u8 p 9
                   polarity := mode.inForce L.polarity }, .ok)
      | none, _, _ | some _, none, _ | some _, some _, none => (s, .badValue)

def LinkState.reason? : LinkState → Option LinkFault
  | .fault w => some w
  | .idle | .hunt | .active => none

def LinkStats.bytes (t : LinkStats) : List Byte :=
  enc4 t.pollsSent ++ enc4 t.goodReplies ++ enc4 t.timeouts ++ enc4 t.checkErrors ++ enc4 t.contentErrors ++ enc4 t.busySkips
    ++ enc4 t.flips

/-- The payload of READ_LINK_STATS, in the order of R157; the last item but one is the number of slots in a round. That
it has one byte, not a count's four, is the model's choice (R191; log 9). -/
def State.linkPayload (s : State) (k : Fin 4) : List Byte :=
  let L := s.link k
  L.stats.bytes ++ enc1 L.state.code ++ encOpt 1 (fun w : LinkFault => enc1 w.code) L.state.reason?
    ++ enc1 L.polarityMode.code ++ enc1 L.polarity.code ++ enc1 L.deadRounds ++ enc1 L.busyRun
    ++ enc4 L.bitRate.bps ++ enc1 L.polarityMode.code ++ enc2 (10 * L.pace) ++ enc1 L.missThreshold ++ enc1 L.returnThreshold
    ++ enc1 (slotList s.stations k).length ++ encTick s.runClock

/-- READ_LINK_STATS (R157): link, clear flag. -/
def readLinkStats (p : List Byte) (s : State) : State × Reply :=
  match linkNo (u8 p 0) with
  | none => (s, .badValue)
  | some k =>
    if 1 < u8 p 1 then (s, .badValue)
    else if u8 p 1 = 1 then (s.updLink k fun L => { L with stats := LinkStats.zero }, .ok (s.linkPayload k))
    else (s, .ok (s.linkPayload k))

def hostSetLink (p : List Byte) (s : State) : State := s.request 0x05#8 [10] setLink p
def hostReadLinkStats (p : List Byte) (s : State) : State := s.request 0x30#8 [2] readLinkStats p

def execSetLink (p : List Byte) (s : State) : Host.Outcome State Fault Refusal := .next (hostSetLink p s)
def execReadLinkStats (p : List Byte) (s : State) : Host.Outcome State Fault Refusal := .next (hostReadLinkStats p s)

def execRoundStart (k : Fin 4) (s : State) : Host.Outcome State Fault Refusal := .next (s.takeRoundStart k)
def execIdleCheckExpiry (k : Fin 4) (s : State) : Host.Outcome State Fault Refusal := .next (s.takeIdleCheck k)
def execSkippedBusy (w : LinkLevel) (s : State) : Host.Outcome State Fault Refusal := .next (s.takeBusy w.link w.level)
def execPollSent (k : Fin 4) (s : State) : Host.Outcome State Fault Refusal := .next (s.takePollSent k)
def execReplyWaitExpiry (k : Fin 4) (s : State) : Host.Outcome State Fault Refusal := .next (s.takeReplyWait k)
def execReplyReceived (k : Fin 4) (w : Pair Byte) (s : State) : Host.Outcome State Fault Refusal := .next (s.takeReply k w)
def execReplyGapExpiry (k : Fin 4) (s : State) : Host.Outcome State Fault Refusal := .next (s.takeReplyGap k)
def execReplyCharacterReceived (k : Fin 4) (e : CharEdge) (s : State) : Host.Outcome State Fault Refusal :=
  .next (s.takeReplyChar k e)

end Sys2Proof.Machine
end

