-- ==== Sys2Proof/Machine/Rehearsal.lean ====
section
/-! DEFINITION. Rehearsal and report injection (chapter 9): SET_REHEARSE and INJECT_REPORT. -/

namespace Sys2Proof.Machine

/-! ## SET_REHEARSE -/

/-- A setting byte: 0 off, 1 on. -/
def flagOf : Nat → Option Bool
  | 0 => some false
  | 1 => some true
  | _ => none

/-- The close reason of a change of rehearsal to a setting (R162 step 2). -/
def rehearseReason (on : Bool) : CloseReason := if on then .rehearseStart else .rehearseEnd

/-- A change of rehearsal (R162): the setting, the close, then the resets. -/
def State.changeRehearsal (s : State) (l : Fin 8) (on : Bool) : State :=
  ((s.updLine l fun ln => { ln with rehearsal := on }).closeLine l (rehearseReason on)).resetLine l

/-- SET_REHEARSE (R161): line, setting. -/
def setRehearse (p : List Byte) (s : State) : State × Reply :=
  match s.partState with
  | .configuring => (s, .refuse .wrongState)
  | .monitoring =>
    match lineNo (u8 p 0), flagOf (u8 p 1) with
    | some l, some on =>
      match s.line? l with
      | none => (s, .refuse .notFound)
      | some ln =>
        if ln.rehearsal = on then (s, .ok (closePayload (s.openNumber l) (s.openNumber l) none))
        else
          let s' := s.changeRehearsal l on
          (s', .ok (closePayload (s.openNumber l) (s'.openNumber l) (s'.newestDisplaced l)))
    | none, _ | some _, none => (s, .badValue)

/-! ## INJECT_REPORT -/

/-- The number of the first field of INJECT_REPORT that is out of range (R164): the other fields cannot be, by their widths. -/
def injectFailing (p : List Byte) : Option Nat :=
  if 95 < u8 p 0 then some 1
  else if 6 < u8 p 1 then some 2
  else if 1 < u8 p 10 then some 8
  else if 1 < u8 p 11 then some 9
  else none

/-- The report that an injection carries, if its state code names a state (R165). -/
def injectedReport (p : List Byte) : Option Report :=
  (ReportedState.ofCode (u8 p 1)).map fun st =>
    { state := st, restart := u8 p 10 == 1, code := u8 p 2, age := u8 p 3
      counters := { infeed := BitVec.ofNat 16 (u16 p 4), outfeed := BitVec.ofNat 16 (u16 p 6), reject := BitVec.ofNat 16 (u16 p 8) } }

/-- The injection outcome by its code: 2 for a miss, 0 when the report was applied, 1 when it was counted toward the return only. -/
def injectionOutcome (miss : Bool) (after : Option Station) : Nat :=
  if miss then 2
  else
    match after with
    | some r => if r.linkState = .silent then 1 else 0
    | none => 0

/-- The payload of INJECT_REPORT: the outcome, the station's link state, miss run and good run, the Run Clock (R164). -/
def injectPayload (miss : Bool) (after : Option Station) (now : Tick) : List Byte :=
  enc1 (injectionOutcome miss after) ++ enc1 ((after.map fun r => r.linkState.code).getD 0)
    ++ enc1 ((after.map (·.missRun)).getD 0) ++ enc1 ((after.map (·.goodRun)).getD 0) ++ encTick now

/-- INJECT_REPORT (R164, R165): station, state code, code, age, infeed, outfeed, reject, restart flag, miss flag. -/
def injectReport (p : List Byte) (s : State) : State × Reply :=
  match s.partState with
  | .configuring => (s, .refuse .wrongState)
  | .monitoring =>
    match injectFailing p, injectedReport p with
    | none, some rep =>
      match s.station? (u8 p 0) with
      | none => (s, .refuse .notFound)
      | some r =>
        if s.rehearsing r.line then
          let miss := u8 p 11 == 1
          let s' := if miss then s.miss r else s.goodReply r rep
          (s', .ok (injectPayload miss (s'.station? r.number) s.runClock))
        else (s, .refuse .notRehearsing)
    | some field, _ => (s, .badValue field)
    | none, none => (s, .badValue 2)

def hostSetRehearse (p : List Byte) (s : State) : State := s.request 0x13#8 [2] setRehearse p
def hostInjectReport (p : List Byte) (s : State) : State := s.request 0x14#8 [12] injectReport p

def execSetRehearse (p : List Byte) (s : State) : Host.Outcome State Fault Refusal := .next (hostSetRehearse p s)
def execInjectReport (p : List Byte) (s : State) : Host.Outcome State Fault Refusal := .next (hostInjectReport p s)

end Sys2Proof.Machine
end

