-- ==== Sys2Proof/Machine/Attention.lean ====
section
/-! DEFINITION. The requests of the Journal and the Attention Unit (chapter 10): TAKE_NOTICES, SET_NOTICE_MASK, SET_WATERMARK,
READ_ATTENTION, CLEAR_ATTENTION and SET_ATTENTION. -/

namespace Sys2Proof.Machine

/-- The oldest notices are removed, and the Attention Unit is told the new length (R172, R176). -/
def State.dropNotices (s : State) (n : Nat) : State :=
  let queue := s.journal.queue.drop n
  { s with journal := { s.journal with queue := queue }, attention := s.attention.removed queue.isEmpty }

/-- A GAP notice accounts for the notices lost, if there are any (R171). -/
def State.queueGap (s : State) : State :=
  if s.journal.gapCount = 0 then s
  else
    let g := s.enqueue none (.gap s.journal.gapCount)
    { g with journal := { g.journal with gapCount := 0 } }

/-- TAKE_NOTICES (R171, R172): number of notices wanted. -/
def takeNotices (p : List Byte) (s : State) : State × Reply :=
  let n := u8 p 0
  if n < 1 ∨ 10 < n then (s, .badValue)
  else if s.journal.queue.isEmpty then (s, .refuse .empty)
  else
    let s' := (s.dropNotices n).queueGap
    (s', .ok (encList Notice.bytes (s.journal.queue.take n) ++ enc2 s'.journal.queue.length ++ enc4 s'.journal.gapCount
      ++ enc2 s'.journal.nextSequence.toNat))

/-- SET_NOTICE_MASK (R173): the set of kinds; bit 15, GAP, is refused. -/
def setNoticeMask (p : List Byte) (s : State) : State × Reply :=
  if 32768 ≤ u16 p 0 then (s, .badValue)
  else ({ s with journal := { s.journal with mask := BitVec.ofNat 16 (u16 p 0) } }, .ok)

/-- SET_WATERMARK (R173): watermark. -/
def setWatermark (p : List Byte) (s : State) : State × Reply :=
  if u16 p 0 < 1 ∨ 512 < u16 p 0 then (s, .badValue)
  else ({ s with journal := { s.journal with watermark := u16 p 0 } }, .ok)

/-- READ_ATTENTION (R178). That the queue length has two bytes, not a count's four, is the model's choice (R191; log 9). -/
def readAttention (_ : List Byte) (s : State) : State × Reply :=
  (s, .ok (enc1 s.attention.flags.toMask ++ enc1 s.attention.enables.toMask ++ enc1 s.attention.mode.code
    ++ enc1 s.attention.flags.topClass ++ enc2 s.journal.queue.length ++ enc4 s.journal.gapCount ++ enc2 s.journal.watermark
    ++ enc2 s.journal.nextSequence.toNat))

/-- CLEAR_ATTENTION (R179): set of flags. -/
def clearAttention (p : List Byte) (s : State) : State × Reply :=
  if 64 ≤ u8 p 0 then (s, .badValue)
  else
    let a := s.attention.clear (AttentionSet.ofMask (u8 p 0)) s.journal.queue.isEmpty
    ({ s with attention := a }, .ok (enc1 a.flags.toMask))

/-- SET_ATTENTION (R179): enables, NOTICE mode. -/
def setAttention (p : List Byte) (s : State) : State × Reply :=
  if 64 ≤ u8 p 0 then (s, .badValue)
  else
    match NoticeMode.ofCode (u8 p 1) with
    | none => (s, .badValue)
    | some mode =>
      ({ s with attention := s.attention.set (AttentionSet.ofMask (u8 p 0)) mode s.journal.queue.isEmpty }, .ok)

def hostTakeNotices (p : List Byte) (s : State) : State := s.request 0x38#8 [1] takeNotices p
def hostSetNoticeMask (p : List Byte) (s : State) : State := s.request 0x39#8 [2] setNoticeMask p
def hostSetWatermark (p : List Byte) (s : State) : State := s.request 0x3A#8 [2] setWatermark p
def hostReadAttention (p : List Byte) (s : State) : State := s.request 0x3B#8 [0] readAttention p
def hostClearAttention (p : List Byte) (s : State) : State := s.request 0x3C#8 [1] clearAttention p
def hostSetAttention (p : List Byte) (s : State) : State := s.request 0x3D#8 [2] setAttention p

def execTakeNotices (p : List Byte) (s : State) : Host.Outcome State Fault Refusal := .next (hostTakeNotices p s)
def execSetNoticeMask (p : List Byte) (s : State) : Host.Outcome State Fault Refusal := .next (hostSetNoticeMask p s)
def execSetWatermark (p : List Byte) (s : State) : Host.Outcome State Fault Refusal := .next (hostSetWatermark p s)
def execReadAttention (p : List Byte) (s : State) : Host.Outcome State Fault Refusal := .next (hostReadAttention p s)
def execClearAttention (p : List Byte) (s : State) : Host.Outcome State Fault Refusal := .next (hostClearAttention p s)
def execSetAttention (p : List Byte) (s : State) : Host.Outcome State Fault Refusal := .next (hostSetAttention p s)

end Sys2Proof.Machine
end

