-- ==== Sys2Proof/Machine/HostLink.lean ====
section
/-! DEFINITION. The Host Link Controller and the part states (chapter 11): COMMIT, SUSPEND, LINE_RESET, IDENTIFY, RESTART, the receiver, the
sending of responses, reset and start-up. -/

namespace Sys2Proof.Machine

/-! ## COMMIT (R186) -/

/-- COMMIT reasons, in the order of their codes 1 to 4 (section 11.6). -/
inductive CommitReason where
  | noLines | noStations | constraintCount | finishCount
  deriving DecidableEq, Repr

def CommitReason.code : CommitReason → Nat
  | .noLines => 1 | .noStations => 2 | .constraintCount => 3 | .finishCount => 4

/-- What is wrong with a defined line's stations, tested in the order of R186. -/
def lineFault (stations : List Station) (l : Fin 8) : Option CommitReason :=
  let rs := stations.filter fun r => r.line == l
  if rs.isEmpty then some .noStations
  else if rs.countP (·.constraint) ≠ 1 then some .constraintCount
  else if rs.countP (·.finish) ≠ 1 then some .finishCount
  else none

/-- The defined lines, in ascending order. -/
def State.definedLines (s : State) : List (Fin 8) := allLines.filter fun l => (s.line? l).isSome

/-- The first failure of the configuration: the line byte (FFh for NO_LINES) and the reason (R186). -/
def State.configFault (s : State) : Option (Nat × CommitReason) :=
  if s.definedLines.isEmpty then some (255, .noLines)
  else s.definedLines.findSome? fun l => (lineFault s.stations l).map fun why => (l.val, why)

/-- A line at entry to MONITORING (R186): SCHEDULED with its initial product (R51), rehearsal off (R160), UNOBSERVED (R19), the initial rate
state (R80), its first period with its age limit (R89, R118). -/
def Line.entered (ln : Line) (p : Period) (t : Tick) : Line :=
  { ln with
    rehearsal := false, mode := .scheduled, currentProduct := ln.defn.initialProduct
    live := some { condition := .unobserved, lastChange := t, allowanceExpiry := none, rate := RateState.initial, period := p
                   ageLimit := ageLimitOf t } }

/-- A defined line enters MONITORING at the present tick. -/
def State.enterLine (s : State) (l : Fin 8) : State :=
  match s.line? l with
  | none => s
  | some ln =>
    let n := s.takePeriodNumber l
    let p := Period.opened l n.1 s.runClock s.plantTime false false false ln.defn.initialProduct (lineStations s.stations l)
    n.2.setLine l (some (ln.entered p s.runClock))

/-- A link at entry to MONITORING (R145): with an enrolled station it becomes HUNT and its first round starts (R147; log 12). -/
def State.enterLink (s : State) (k : Fin 4) : State :=
  if (linkStations s.stations k).isEmpty then s
  else (s.updLink k fun L => { L with state := .hunt, deadRounds := 0, busyRun := 0 }).beginRound k

/-- Entry to MONITORING at the present tick (R186). -/
def State.enterMonitoring (s : State) : State :=
  let s := { s with partState := .monitoring, stations := s.stations.map (·.restarted s.runClock) }
  allLinks.foldl State.enterLink (allLines.foldl State.enterLine s)

/-- The payload of COMMIT: E, and each defined line with the number of its period (R186). -/
def State.commitPayload (s : State) : List Byte :=
  encTick s.runClock ++ encList (fun l : Fin 8 => enc1 l.val ++ encTick (s.openNumber l)) s.definedLines

/-- COMMIT (R186). -/
def commitReq (_ : List Byte) (s : State) : State × Reply :=
  match s.partState with
  | .monitoring => (s, .refuse .wrongState)
  | .configuring =>
    match s.configFault with
    | some f => (s, { result := .invalidConfig, payload := enc1 f.1 ++ enc1 f.2.code })
    | none => (s.enterMonitoring, .ok s.enterMonitoring.commitPayload)

/-! ## SUSPEND (R187) -/

/-- The period that a SUSPEND close opens is discarded with the rest of the line's live state, and its number is returned (R89, R19, R8). -/
def State.discardLive (s : State) (l : Fin 8) : State :=
  let s := s.updLine l fun ln => { ln with live := none }
  { s.updStationsOf l fun r => { r with accrualStart := none } with
    periodCounter := s.periodCounter.set l (s.periodCounter[l] - 1#32) }

/-- SUSPEND's acts on one line (R187 steps 1 to 4). -/
def State.suspendLine (s : State) (l : Fin 8) : State :=
  match s.live? l with
  | none => s
  | some _ => ((s.closeLine l .suspend).abandon l).discardLive l

/-- Every link becomes IDLE and its round is discarded (R145, R158). -/
def Link.suspended (L : Link) : Link :=
  { L with state := .idle, round := none, nextRound := none, deadRounds := 0, busyRun := 0 }

/-- SUSPEND at the present tick (R187). -/
def State.suspendAll (s : State) : State :=
  let s := allLines.foldl State.suspendLine s
  { s with links := s.links.map Link.suspended, partState := .configuring }

/-- The payload of SUSPEND: each defined line with the period closed and the displaced number (R187); `before` is the state at the request. -/
def suspendPayload (before after : State) : List Byte :=
  encList (fun l : Fin 8 => enc1 l.val ++ encTick (before.openNumber l) ++ encOpt 4 encTick (after.newestDisplaced l)) before.definedLines

/-- SUSPEND (R187). -/
def suspendReq (_ : List Byte) (s : State) : State × Reply :=
  match s.partState with
  | .configuring => (s, .refuse .wrongState)
  | .monitoring => (s.suspendAll, .ok (suspendPayload s s.suspendAll))

/-! ## LINE_RESET, IDENTIFY, RESTART -/

/-- LINE_RESET (R188): line. -/
def lineResetReq (p : List Byte) (s : State) : State × Reply :=
  match s.partState with
  | .configuring => (s, .refuse .wrongState)
  | .monitoring =>
    match lineNo (u8 p 0) with
    | none => (s, .badValue)
    | some l =>
      match s.line? l with
      | none => (s, .refuse .notFound)
      | some _ =>
        let s' := (s.closeLine l .lineReset).resetLine l
        (s', .ok (closePayload (s.openNumber l) (s'.openNumber l) (s'.newestDisplaced l)))

/-- IDENTIFY (R190): vendor code, PENTHA, part code, revision, part state, the thirteen capacities. -/
def identifyReq (_ : List Byte) (s : State) : State × Reply :=
  (s, .ok (enc2 0x0E21 ++ [0x50#8, 0x45#8, 0x4E#8, 0x54#8, 0x48#8, 0x41#8] ++ enc2 896 ++ enc1 1 ++ enc1 s.partState.code
    ++ enc1 8 ++ enc1 96 ++ enc1 4 ++ enc1 24 ++ enc1 16 ++ enc2 512 ++ enc2 512 ++ enc1 3 ++ enc1 8 ++ enc1 48 ++ enc1 4
    ++ enc2 256 ++ enc1 254))

/-- RESTART (R189): answered OK; the reset follows when its response has been sent. -/
def restartReq (_ : List Byte) (s : State) : State × Reply := (s, .ok)

def hostCommit (p : List Byte) (s : State) : State := s.request 0x06#8 [0] commitReq p
def hostLineReset (p : List Byte) (s : State) : State := s.request 0x15#8 [1] lineResetReq p
def hostSuspend (p : List Byte) (s : State) : State := s.request 0x16#8 [0] suspendReq p
def hostIdentify (p : List Byte) (s : State) : State := s.request 0x3E#8 [0] identifyReq p
def hostRestart (p : List Byte) (s : State) : State := s.request 0x3F#8 [0] restartReq p

/-! ## The receiver (R182–R184) -/

/-- The requests by kind byte (section 11.6). -/
def requestTable : List (Byte × (List Byte → State → State)) :=
  [(0x01#8, hostDefineLine), (0x02#8, hostUndefineLine), (0x03#8, hostEnrollStation), (0x04#8, hostRemoveStation),
   (0x05#8, hostSetLink), (0x06#8, hostCommit), (0x10#8, hostDeclareLineMode), (0x11#8, hostSetRate), (0x12#8, hostClosePeriod),
   (0x13#8, hostSetRehearse), (0x14#8, hostInjectReport), (0x15#8, hostLineReset), (0x16#8, hostSuspend)]
  ++ [(0x20#8, hostBypassStation), (0x21#8, hostReadStation), (0x22#8, hostReadLineStatus), (0x23#8, hostMapCause),
   (0x24#8, hostUnmapCause), (0x25#8, hostReadMap), (0x28#8, hostLoadClock), (0x29#8, hostStepClock), (0x2A#8, hostReadClock),
   (0x2B#8, hostArmTrigger), (0x2C#8, hostDisarmTrigger), (0x2D#8, hostReadTriggers), (0x30#8, hostReadLinkStats)]
  ++ [(0x34#8, hostListClosed), (0x35#8, hostReadClosed), (0x36#8, hostReleaseClosed), (0x37#8, hostReadOpen),
   (0x38#8, hostTakeNotices), (0x39#8, hostSetNoticeMask), (0x3A#8, hostSetWatermark), (0x3B#8, hostReadAttention),
   (0x3C#8, hostClearAttention), (0x3D#8, hostSetAttention), (0x3E#8, hostIdentify), (0x3F#8, hostRestart)]

/-- A frame whose kind names no request (R183, R184): answered UNKNOWN_KIND whatever its length, unless a response is being sent. -/
def hostUnknownKind (kind : Byte) (s : State) : State :=
  if s.host.sending.isSome then { s with host := { s.host with overrun := true } } else s.respond kind (.refuse .unknownKind)

/-- A frame with a good check completes at the present tick (R183, R184). -/
def State.takeFrame (s : State) (frame : Byte × List Byte) : State :=
  match requestTable.find? fun row => row.1 == frame.1 with
  | some row => row.2 frame.2 s
  | none => hostUnknownKind frame.1 s

/-- The bytes that a receiver holds, and hunts over again when its frame is discarded (R182). -/
def Receiver.held : Receiver → List Byte
  | .idle | .hunting => []
  | .collecting bytes => 0xA5#8 :: bytes

/-- The receiver hunts over bytes (R182) and the frames that complete are taken in order (log 24). -/
def State.receive (s : State) (gap : Bool) (bytes : List Byte) : State :=
  let h := hunt gap bytes.length bytes
  h.1.foldl State.takeFrame { s with host := { s.host with receiver := h.2 } }

/-- HOST_BYTE_RECEIVED (R182); an idle receiver takes no characters (R189). -/
def State.takeHostByte (s : State) (b : Byte) : State :=
  match s.host.receiver with
  | .idle => s
  | .hunting => s.receive false [b]
  | .collecting bytes => s.receive false ((Receiver.collecting bytes).held ++ [b])

/-- HOST_CHARACTER_GAP_EXPIRY (R182; log 10). -/
def State.takeHostGap (s : State) : State :=
  match s.host.receiver with
  | .idle | .hunting => s
  | .collecting bytes => s.receive true (Receiver.collecting bytes).held

/-! ## Reset, start-up and the end of a response (R189) -/

/-- Every block at its values after reset, in a reset phase; what is not the part's is kept: the queue of commands and the model's own count
of free values (log 23). -/
def State.afterReset (s : State) (phase : ResetPhase) : State :=
  { State.reset with pending := s.pending, freeDraws := s.freeDraws, resetPhase := phase }

/-- RESPONSE_SENT (R183): the sending ends; after RESTART's response the part acts as though RESET# had been asserted and released (R189). -/
def State.takeResponseSent (s : State) : State :=
  match s.host.sending with
  | none => s
  | some r =>
    if r.kind = 0xBF#8 ∧ r.result = .ok then s.afterReset .startUp else { s with host := { s.host with sending := none } }

/-- RESET_RELEASE (R189): the reset ends and start-up begins. -/
def State.takeRelease (s : State) : State :=
  match s.resetPhase with
  | .held => { s with resetPhase := .startUp }
  | .startUp | .running => s

/-- START_UP_END (R189): the RATE pins are sampled and the receiver begins hunting (R181). -/
def State.takeStartUpEnd (s : State) (rate1 rate0 : Bool) : State :=
  match s.resetPhase with
  | .startUp => { s with resetPhase := .running, host := { s.host with receiver := .hunting, rate1 := rate1, rate0 := rate0 } }
  | .held | .running => s

def execCommit (p : List Byte) (s : State) : Host.Outcome State Fault Refusal := .next (hostCommit p s)
def execSuspend (p : List Byte) (s : State) : Host.Outcome State Fault Refusal := .next (hostSuspend p s)
def execLineReset (p : List Byte) (s : State) : Host.Outcome State Fault Refusal := .next (hostLineReset p s)
def execIdentify (p : List Byte) (s : State) : Host.Outcome State Fault Refusal := .next (hostIdentify p s)
def execRestart (p : List Byte) (s : State) : Host.Outcome State Fault Refusal := .next (hostRestart p s)

def execHostByteReceived (b : Byte) (s : State) : Host.Outcome State Fault Refusal := .next (s.takeHostByte b)
def execHostCharacterGapExpiry (s : State) : Host.Outcome State Fault Refusal := .next s.takeHostGap
def execResponseSent (s : State) : Host.Outcome State Fault Refusal := .next s.takeResponseSent
def execResetPin (s : State) : Host.Outcome State Fault Refusal := .next (s.afterReset .held)
def execStartUpEnd (rate1 rate0 : Bool) (s : State) : Host.Outcome State Fault Refusal := .next (s.takeStartUpEnd rate1 rate0)
def execResetRelease (s : State) : Host.Outcome State Fault Refusal := .next s.takeRelease

end Sys2Proof.Machine
end

