-- ==== Sys2Proof/Machine/Dispatch.lean ====
section
/-! DEFINITION. One arm for each command: its meaning. -/

namespace Sys2Proof.Machine

def exec (i : Instr) (s : State) : Host.Outcome State Fault Refusal :=
  match i with
  | .defineLine payload => Sys2Proof.Machine.execDefineLine payload s
  | .undefineLine payload => Sys2Proof.Machine.execUndefineLine payload s
  | .enrollStation payload => Sys2Proof.Machine.execEnrollStation payload s
  | .removeStation payload => Sys2Proof.Machine.execRemoveStation payload s
  | .bypassStation payload => Sys2Proof.Machine.execBypassStation payload s
  | .readStation payload => Sys2Proof.Machine.execReadStation payload s
  | .mapCause payload => Sys2Proof.Machine.execMapCause payload s
  | .unmapCause payload => Sys2Proof.Machine.execUnmapCause payload s
  | .readMap payload => Sys2Proof.Machine.execReadMap payload s
  | .declareLineMode payload => Sys2Proof.Machine.execDeclareLineMode payload s
  | .readLineStatus payload => Sys2Proof.Machine.execReadLineStatus payload s
  | .setRate payload => Sys2Proof.Machine.execSetRate payload s
  | .closePeriod payload => Sys2Proof.Machine.execClosePeriod payload s
  | .listClosed payload => Sys2Proof.Machine.execListClosed payload s
  | .readClosed payload => Sys2Proof.Machine.execReadClosed payload s
  | .releaseClosed payload => Sys2Proof.Machine.execReleaseClosed payload s
  | .readOpen payload => Sys2Proof.Machine.execReadOpen payload s
  | .loadClock payload => Sys2Proof.Machine.execLoadClock payload s
  | .stepClock payload => Sys2Proof.Machine.execStepClock payload s
  | .readClock payload => Sys2Proof.Machine.execReadClock payload s
  | .armTrigger payload => Sys2Proof.Machine.execArmTrigger payload s
  | .disarmTrigger payload => Sys2Proof.Machine.execDisarmTrigger payload s
  | .readTriggers payload => Sys2Proof.Machine.execReadTriggers payload s
  | .setLink payload => Sys2Proof.Machine.execSetLink payload s
  | .readLinkStats payload => Sys2Proof.Machine.execReadLinkStats payload s
  | .setRehearse payload => Sys2Proof.Machine.execSetRehearse payload s
  | .injectReport payload => Sys2Proof.Machine.execInjectReport payload s
  | .takeNotices payload => Sys2Proof.Machine.execTakeNotices payload s
  | .setNoticeMask payload => Sys2Proof.Machine.execSetNoticeMask payload s
  | .setWatermark payload => Sys2Proof.Machine.execSetWatermark payload s
  | .readAttention payload => Sys2Proof.Machine.execReadAttention payload s
  | .clearAttention payload => Sys2Proof.Machine.execClearAttention payload s
  | .setAttention payload => Sys2Proof.Machine.execSetAttention payload s
  | .commit payload => Sys2Proof.Machine.execCommit payload s
  | .suspend payload => Sys2Proof.Machine.execSuspend payload s
  | .lineReset payload => Sys2Proof.Machine.execLineReset payload s
  | .identify payload => Sys2Proof.Machine.execIdentify payload s
  | .restart payload => Sys2Proof.Machine.execRestart payload s
  | .hostByteReceived b => Sys2Proof.Machine.execHostByteReceived b s
  | .hostCharacterGapExpiry => Sys2Proof.Machine.execHostCharacterGapExpiry s
  | .responseSent => Sys2Proof.Machine.execResponseSent s
  | .resetPin => Sys2Proof.Machine.execResetPin s
  | .startUpEnd rate1 rate0 => Sys2Proof.Machine.execStartUpEnd rate1 rate0 s
  | .runClockTick => Sys2Proof.Machine.execRunClockTick s
  | .plantSecondAdvance => Sys2Proof.Machine.execPlantSecondAdvance s
  | .plantClockLimit => Sys2Proof.Machine.execPlantClockLimit s
  | .triggerExpiry trigger => Sys2Proof.Machine.execTriggerExpiry trigger s
  | .ageLimit line => Sys2Proof.Machine.execAgeLimit line s
  | .promotionExpiry line => Sys2Proof.Machine.execPromotionExpiry line s
  | .confirmationExpiry line => Sys2Proof.Machine.execConfirmationExpiry line s
  | .longStopExpiry line => Sys2Proof.Machine.execLongStopExpiry line s
  | .durationCapExpiry line => Sys2Proof.Machine.execDurationCapExpiry line s
  | .allowanceExpiry line => Sys2Proof.Machine.execAllowanceExpiry line s
  | .windowExpiry line => Sys2Proof.Machine.execWindowExpiry line s
  | .gapExpiry station => Sys2Proof.Machine.execGapExpiry station s
  | .roundStart link => Sys2Proof.Machine.execRoundStart link s
  | .idleCheckExpiry link => Sys2Proof.Machine.execIdleCheckExpiry link s
  | .skippedBusy link => Sys2Proof.Machine.execSkippedBusy link s
  | .pollSent link => Sys2Proof.Machine.execPollSent link s
  | .replyWaitExpiry link => Sys2Proof.Machine.execReplyWaitExpiry link s
  | .replyReceived link last => Sys2Proof.Machine.execReplyReceived link last s
  | .replyGapExpiry link => Sys2Proof.Machine.execReplyGapExpiry link s
  | .resetRelease => Sys2Proof.Machine.execResetRelease s
  | .replyCharacterReceived link edge => Sys2Proof.Machine.execReplyCharacterReceived link edge s

end Sys2Proof.Machine
end

