-- ==== Sys2Proof/Safety.lean ====
section
/-! DEFINITION. What counts as a sound state, in the terms that claims use: the laws of the account (R65, R99, R104, R105, R107), of the Period
Store, the Journal, the Cause Map, the enrollment, the part states, the field links and the reset. -/

namespace Sys2Proof.Machine

/-! ## The account -/

/-- The charge frontier of a line (R96). -/
def Live.frontier (lv : Live) : Tick :=
  match lv.condition with
  | .notScheduled | .unobserved | .producing => lv.lastChange
  | .planned _ t | .changeover _ t | .overrun t => t
  | .candidate c => c.chargeStart
  | .stopped st | .restarting st _ _ => st.segmentStart

/-- The eight classes add up to the frontier less the period's start (R99, R96). -/
def Live.timeBalanced (lv : Live) : Prop := lv.period.classes.total = lv.frontier - lv.period.start

/-- The eight classes of a closed record or snapshot add up to its elapsed ticks (R99). -/
def ClosedRecord.timeBalanced (r : ClosedRecord) : Prop := r.period.classes.total = r.elapsed

/-- A sum of ticks. -/
def sumTicks (ts : List Tick) : Tick := ts.foldr (· + ·) 0#32

/-- A sum of counts. -/
def sumCounts (ns : List Nat) : Nat := ns.foldr (· + ·) 0

def Period.stopTicks (p : Period) : Tick := sumTicks (p.allBuckets.map (·.stopTicks))
def Period.microTicks (p : Period) : Tick := sumTicks (p.allBuckets.map (·.microTicks))

/-- The two sums of R105 over ticks. -/
def Period.ticksBalanced (p : Period) : Prop :=
  p.stopTicks = p.classes.stopped + p.classes.planned + p.classes.changeover + p.classes.overrun
    ∧ p.microTicks + p.carriedShort = p.classes.shortStop

/-- The two sums of R105 over counts. -/
def Period.countsBalanced (p : Period) : Prop :=
  sumCounts (p.allBuckets.map (·.stoppages)) = p.stoppagesOpened ∧ sumCounts (p.allBuckets.map (·.microStops)) = p.microStops

/-- The runs' counts add up to the period's (R107). -/
def Period.runsBalanced (p : Period) : Prop :=
  sumCounts (p.runs.map (·.constraintGood)) = p.constraintGood ∧ sumCounts (p.runs.map (·.finishedGood)) = p.finishedGood

/-- The bucket list is as R104 says. -/
def Period.bucketsListed (p : Period) : Prop :=
  p.buckets.length ≤ 48 ∧ p.buckets.Pairwise (fun a b => ¬(a.station = b.station ∧ a.cause = b.cause))
    ∧ (p.other.isSome → p.otherUsed = true ∧ p.buckets.length = 48)

/-- A period's content is sound: R65 (one to four runs), R104, R105, R107; the sums of counts until a count saturates. -/
def Period.sound (p : Period) : Prop :=
  (1 ≤ p.runs.length ∧ p.runs.length ≤ 4) ∧ p.bucketsListed ∧ p.ticksBalanced
    ∧ (p.saturated = false → p.countsBalanced ∧ p.runsBalanced)

/-- A live line's account is sound. -/
def Live.sound (lv : Live) : Prop := lv.timeBalanced ∧ lv.period.sound

/-- A closed record's or snapshot's account is sound; its slow ticks do not exceed its PRODUCING total (R108). -/
def ClosedRecord.sound (r : ClosedRecord) : Prop :=
  r.timeBalanced ∧ r.period.sound ∧ r.period.slowTicks.toNat ≤ r.period.classes.producing.toNat

/-- The account of the whole part is sound: every open period, every record of the Period Store, the snapshot. -/
def State.accountSound (s : State) : Prop :=
  (∀ l lv, s.live? l = some lv → lv.sound) ∧ (∀ l : Fin 8, ∀ r ∈ s.store[l], r.sound) ∧ (∀ r, s.snapshot = some r → r.sound)

/-- No line's list in the Period Store holds more than three records (R120). -/
def State.storeSound (s : State) : Prop := ∀ l : Fin 8, s.store[l].length ≤ 3

/-! ## The Journal and the Attention Unit -/

/-- The notices carry consecutive sequence numbers, modulo 65536, the oldest the given one (R170). -/
def consecutiveFrom (q : BitVec 16) : List Notice → Prop
  | [] => True
  | n :: rest => n.sequence = q ∧ consecutiveFrom (q + 1) rest

/-- The Journal is sound (R167, R170, R173): at most 512 notices, consecutive up to the next sequence, 512 while notices are lost. -/
def Journal.sound (j : Journal) : Prop :=
  j.queue.length ≤ 512 ∧ consecutiveFrom (j.nextSequence - BitVec.ofNat 16 j.queue.length) j.queue
    ∧ (0 < j.gapCount → j.queue.length = 512) ∧ j.gapCount ≤ maxCount
    ∧ j.mask.getLsbD 15 = false ∧ 1 ≤ j.watermark ∧ j.watermark ≤ 512

/-- In mode LEVEL, NOTICE is set exactly while the queue holds a notice (R176). -/
def State.noticeSound (s : State) : Prop :=
  s.attention.mode = .level → s.attention.flags.notice = !s.journal.queue.isEmpty

def State.journalSound (s : State) : Prop := s.journal.sound ∧ s.noticeSound

/-! ## The Cause Map -/

/-- The fields of a Cause Map entry are in the ranges of R45. -/
def CauseEntry.inRange (e : CauseEntry) : Prop :=
  (e.station ≤ 95 ∨ e.station = 255) ∧ e.code ≤ 255 ∧ (e.kind = .operator → 1 ≤ e.code) ∧ 1 ≤ e.cause ∧ e.cause ≤ 239
    ∧ e.cls ≠ .overrun ∧ e.cls ≠ .planned

/-- The Cause Map is sound: at most 512 entries, in strictly ascending order of key, so that no two share a key (R45). -/
def causeMapSound (m : List CauseEntry) : Prop :=
  m.length ≤ 512 ∧ m.Pairwise (fun a b => a.rank < b.rank) ∧ ∀ e ∈ m, e.inRange

/-! ## Enrollment and part states -/

/-- Two stations share no identity (R3, R186). -/
def Station.apart (a b : Station) : Prop :=
  a.number ≠ b.number ∧ ¬(a.link = b.link ∧ a.address = b.address) ∧ ¬(a.line = b.line ∧ a.position = b.position)

/-- The configured fields of a station are in the ranges of R3. -/
def Station.inRange (r : Station) : Prop :=
  r.number ≤ 95 ∧ 1 ≤ r.address ∧ r.address ≤ 31 ∧ 1 ≤ r.position ∧ r.position ≤ 16 ∧ 1 ≤ r.maxRate ∧ r.maxRate ≤ 120000

/-- A line has exactly one station with each role (R186). -/
def rolesFilled (stations : List Station) (l : Fin 8) : Prop :=
  (stations.filter fun r => r.line == l).countP (·.constraint) = 1
    ∧ (stations.filter fun r => r.line == l).countP (·.finish) = 1

/-- The enrollment is sound (R186, R3): no shared identity, at most 24 stations on a link, every station's line defined; in MONITORING every
defined line has one CONSTRAINT and one FINISH station. -/
def State.enrollmentSound (s : State) : Prop :=
  s.stations.Pairwise Station.apart ∧ (∀ k, enrolledOn s.stations k ≤ 24)
    ∧ (∀ r ∈ s.stations, r.inRange ∧ (s.line? r.line).isSome)
    ∧ (s.partState = .monitoring → ∀ l, (s.line? l).isSome → rolesFilled s.stations l)

/-- What the part state decides (R89, R19, R145): a defined line has live state exactly in MONITORING, and in CONFIGURING every link is IDLE with
no round. -/
def State.partSound (s : State) : Prop :=
  (∀ l ln, s.line? l = some ln → (ln.live.isSome ↔ s.partState = .monitoring))
    ∧ (s.partState = .configuring → ∀ k, (s.link k).state = .idle ∧ (s.link k).round = none)

/-! ## Field links -/

/-- Until a count saturates, the polls sent are the sum of the four outcomes (R156). -/
def LinkStats.sound (t : LinkStats) : Prop :=
  t.pollsSent < maxCount → t.pollsSent = t.goodReplies + t.timeouts + t.checkErrors + t.contentErrors

/-- A link's dead rounds and busy run are in their ranges, and its statistics are sound (R145, R148, R153, R156). -/
def Link.sound (L : Link) : Prop :=
  L.deadRounds ≤ 6 ∧ L.busyRun ≤ 255 ∧ L.stats.sound

def State.linksSound (s : State) : Prop := ∀ k, (s.link k).sound

/-! ## Reset -/

/-- While RESET# is held, and during start-up, every block holds its values after reset (R189); the Run Clock alone may have advanced. -/
def State.resetSound (s : State) : Prop :=
  s.resetPhase ≠ .running →
    s = { State.reset with pending := s.pending, freeDraws := s.freeDraws, resetPhase := s.resetPhase, runClock := s.runClock }
      ∧ (s.resetPhase = .held → s.runClock = 0#32)

/-! ## Requests -/

/-- The host link can take a request: the receiver takes characters, and no response is being sent (R183, R189). -/
def State.ready (s : State) : Prop := s.host.receiver ≠ .idle ∧ s.host.sending = none

/-- The kind byte of a request, the payload lengths it accepts, and its payload (table of section 11.6). -/
def requestForm : Instr → Option (Byte × List Nat × List Byte)
  | .defineLine p => some (0x01#8, [3, 19], p)
  | .undefineLine p => some (0x02#8, [1], p)
  | .enrollStation p => some (0x03#8, [10], p)
  | .removeStation p => some (0x04#8, [1], p)
  | .setLink p => some (0x05#8, [10], p)
  | .commit p => some (0x06#8, [0], p)
  | .declareLineMode p => some (0x10#8, [9], p)
  | .setRate p => some (0x11#8, [7], p)
  | .closePeriod p => some (0x12#8, [1], p)
  | .setRehearse p => some (0x13#8, [2], p)
  | .injectReport p => some (0x14#8, [12], p)
  | .lineReset p => some (0x15#8, [1], p)
  | .suspend p => some (0x16#8, [0], p)
  | .bypassStation p => some (0x20#8, [2], p)
  | .readStation p => some (0x21#8, [1], p)
  | .readLineStatus p => some (0x22#8, [1], p)
  | .mapCause p => some (0x23#8, [5], p)
  | .unmapCause p => some (0x24#8, [3], p)
  | .readMap p => some (0x25#8, [2], p)
  | .loadClock p => some (0x28#8, [4], p)
  | .stepClock p => some (0x29#8, [4], p)
  | .readClock p => some (0x2A#8, [0], p)
  | .armTrigger p => some (0x2B#8, [10], p)
  | .disarmTrigger p => some (0x2C#8, [1], p)
  | .readTriggers p => some (0x2D#8, [0], p)
  | .readLinkStats p => some (0x30#8, [2], p)
  | .listClosed p => some (0x34#8, [1], p)
  | .readClosed p => some (0x35#8, [8], p)
  | .releaseClosed p => some (0x36#8, [5], p)
  | .readOpen p => some (0x37#8, [4], p)
  | .takeNotices p => some (0x38#8, [1], p)
  | .setNoticeMask p => some (0x39#8, [2], p)
  | .setWatermark p => some (0x3A#8, [2], p)
  | .readAttention p => some (0x3B#8, [0], p)
  | .clearAttention p => some (0x3C#8, [1], p)
  | .setAttention p => some (0x3D#8, [2], p)
  | .identify p => some (0x3E#8, [0], p)
  | .restart p => some (0x3F#8, [0], p)
  | .hostByteReceived _ | .hostCharacterGapExpiry | .responseSent | .resetPin | .startUpEnd _ _
  | .runClockTick | .plantSecondAdvance | .plantClockLimit
  | .triggerExpiry _ | .ageLimit _ | .promotionExpiry _ | .confirmationExpiry _ | .longStopExpiry _
  | .durationCapExpiry _ | .allowanceExpiry _ | .windowExpiry _ | .gapExpiry _
  | .roundStart _ | .idleCheckExpiry _ | .skippedBusy _ | .pollSent _ | .replyWaitExpiry _ | .replyReceived _ _
  | .replyGapExpiry _ | .resetRelease | .replyCharacterReceived _ _ => none

/-- Commands that may end in a reset of the part, or carry any request: the reset pin, the end of a response, the characters of the host link. -/
def carriesAny : Instr → Bool
  | .resetPin | .responseSent | .hostByteReceived _ | .hostCharacterGapExpiry => true
  | _ => false

/-! ## What a statement about one line, link or station needs -/

/-- The line is defined and live: its definition and mode state, and its live state. -/
def State.onLine (s : State) (l : Fin 8) (ln : Line) (lv : Live) : Prop := s.line? l = some ln ∧ ln.live = some lv

/-- The poll slot in progress of a link, with its station and what the slot is doing. -/
def State.inSlot (s : State) (k : Fin 4) (r : Round) (phase : SlotPhase) (st : Station) : Prop :=
  (s.link k).round = some r ∧ r.phase = phase ∧ s.slotStation r = some st

/-- A report telegram of a node (R194), by its address and its five fields as they stand on the pair. -/
def reportTelegram (address status code age infeed outfeed reject : Nat) : List Byte :=
  let covered := 0xC3#8 :: enc1 address ++ [0xF0#8] ++ enc1 status ++ enc1 code ++ enc1 age ++ enc2 infeed ++ enc2 outfeed ++ enc2 reject
  covered ++ check covered

/-- The fields of a record that enrollment and bypass requests write (R7). -/
def Station.config (r : Station) : Nat × Fin 4 × Nat × Fin 8 × Nat × Bool × Bool × Nat × Bool :=
  (r.number, r.link, r.address, r.line, r.position, r.constraint, r.finish, r.maxRate, r.bypassed)

/-! ## What a reply does -/

/-- What a miss does to a record (R11–R13): the record's other fields stay, and its accrual start too where its link state stays. -/
def Station.tookMiss (r q : Station) (missThreshold : Nat) : Prop :=
  q.missRun = min (r.missRun + 1) 255
  ∧ q.linkState = (if r.linkState = .reporting ∧ missThreshold ≤ r.missRun + 1 then .silent else r.linkState)
  ∧ q.goodRun = (if q.linkState = .silent then 0 else r.goodRun)
  ∧ q = { r with missRun := q.missRun, linkState := q.linkState, goodRun := q.goodRun, accrualStart := q.accrualStart }
  ∧ (q.linkState = r.linkState → q.accrualStart = r.accrualStart)

/-- What a good reply does to a record at a tick (R9–R13, R70): counted toward a silent station's return, or applied. -/
def Station.tookGood (r q : Station) (rep : Report) (returnThreshold : Nat) (now : Tick) : Prop :=
  if r.linkState = .silent ∧ r.goodRun + 1 < returnThreshold then q = { r with goodRun := r.goodRun + 1 }
  else
    q = { r with
      reported := some rep.state
      faultCode := if rep.state = .fault then rep.code else 0
      reasonCode := if rep.state = .operatorStop then rep.code else 0
      changeInstant := q.changeInstant, lastApplied := some now, linkState := .reporting, missRun := 0, goodRun := 0
      baselines := some rep.counters, gap := some { expiry := now + 393216000#32, taken := false }, accrualStart := q.accrualStart }
    ∧ (r.changedBy rep = false → q.changeInstant = r.changeInstant)
    ∧ (r.changedBy rep = true → ∃ x, q.changeInstant = some x ∧ (now - x).toNat ≤ rep.age)

/-- The time of a record's category up to now, charged to its entry in its line's open period: unseen while it is not REPORTING, halted while
it is REPORTING a fault or an operator stop (R15, R16). -/
def State.categoryCharged (s : State) (r : Station) : State :=
  s.updLive r.line fun lv => { lv with period :=
    match r.accrualStart with
    | none => lv.period
    | some a =>
      if r.linkState ≠ .reporting then lv.period.updEntry r.number fun e => { e with unseen := e.unseen + (s.runClock - a) }
      else if r.reported = some .fault ∨ r.reported = some .operatorStop then
        lv.period.updEntry r.number fun e => { e with halted := e.halted + (s.runClock - a) }
      else lv.period }

/-- What a miss for a record does (R11–R13): its runs; and at the miss threshold of a REPORTING station the link state SILENT, the category
charge, STATION_SILENT, attention LINK and the offer to the line, in this order. -/
def State.tookMiss (s t : State) (r : Station) : Prop :=
  (r.linkState = .unknown → t = s.updStation r.number fun q => { q with missRun := min (r.missRun + 1) 255 })
  ∧ (r.linkState = .silent → t = s.updStation r.number fun q => { q with missRun := min (r.missRun + 1) 255, goodRun := 0 })
  ∧ (r.linkState = .reporting → r.missRun + 1 < (s.link r.link).missThreshold →
      t = s.updStation r.number fun q => { q with missRun := min (r.missRun + 1) 255 })
  ∧ (r.linkState = .reporting → (s.link r.link).missThreshold ≤ r.missRun + 1 → ∀ q,
      q = { r with linkState := .silent, missRun := min (r.missRun + 1) 255, goodRun := 0, accrualStart := some s.runClock } →
      t = ((((s.categoryCharged r).updStation r.number fun _ => q).notify (some r.line)
            (.stationSilent r.number r.lastApplied)).latch .link).offerSilent r.line q)
  ∧ ∃ q, t.station? r.number = some q ∧ r.tookMiss q (s.link r.link).missThreshold

/-- How far a report of a record is placed before its arrival tick (R17): its age, clamped by the last applied report, unless the gap expiry has
been taken since, by the line's last condition change and by the start of its open period. -/
def Station.placedBack (r : Station) (rep : Report) (now : Tick) (lv : Live) : Nat :=
  min (min rep.age
      (match r.lastApplied, r.gap with
      | some _, some { expiry := _, taken := true } => rep.age
      | some a, _ => (now - a).toNat
      | none, _ => rep.age))
    (min (now - lv.lastChange).toNat (now - lv.period.start).toNat)

/-- What a good reply for a record does (R9–R13, R15, R17): it is counted toward a SILENT station's return, or it is applied, in the order of R10:
the record with its state-change instant `x`, the category charge, STATION_REPORTING on a return, the counters, and the offer of a change. -/
def State.tookGood (s t : State) (r : Station) (rep : Report) : Prop :=
  (r.linkState = .silent ∧ r.goodRun + 1 < (s.link r.link).returnThreshold →
    t = s.updStation r.number fun q => { q with goodRun := r.goodRun + 1 })
  ∧ (¬(r.linkState = .silent ∧ r.goodRun + 1 < (s.link r.link).returnThreshold) →
    ∃ (x : Tick) (q : Station) (changed sameCategory : Bool) (u v : State),
      (changed = true ↔ r.reported ≠ some rep.state ∨ (rep.state = .fault ∧ r.faultCode ≠ rep.code)
        ∨ (rep.state = .operatorStop ∧ r.reasonCode ≠ rep.code))
      ∧ (sameCategory = true ↔ r.linkState = .reporting ∧
          ((r.reported = some .fault ∨ r.reported = some .operatorStop) ↔ (rep.state = .fault ∨ rep.state = .operatorStop)))
      ∧ ((r.constraint = true ∧ r.linkState = .reporting ∧ ∃ st, r.reported = some st ∧ (st = .run ↔ rep.state ≠ .run)) →
          ∀ lv, s.live? r.line = some lv → x = s.runClock - ticks (r.placedBack rep s.runClock lv))
      ∧ (¬(r.constraint = true ∧ r.linkState = .reporting ∧ ∃ st, r.reported = some st ∧ (st = .run ↔ rep.state ≠ .run)) →
          x = s.runClock)
      ∧ q = { r with
          reported := some rep.state
          faultCode := if rep.state = .fault then rep.code else 0
          reasonCode := if rep.state = .operatorStop then rep.code else 0
          changeInstant := if changed then some x else r.changeInstant
          lastApplied := some s.runClock, linkState := .reporting, missRun := 0, goodRun := 0
          accrualStart := if sameCategory then r.accrualStart else some s.runClock }
      ∧ u = ((if sameCategory then s else s.categoryCharged r).updStation r.number fun _ => q)
      ∧ v = (if r.linkState = .silent then u.notify (some r.line) (.stationReporting r.number s.runClock) else u).takeCounters r
          r.lastApplied rep.counters rep.restart
      ∧ t = (if changed = true ∨ r.linkState ≠ .reporting then v.offerReport r.line q x else v))
  ∧ ∃ q, t.station? r.number = some q ∧ r.tookGood q rep (s.link r.link).returnThreshold s.runClock

/-! ## What the end of a slot does -/

/-- The completion of a round `r` of a link (R147, R153, R154): the round is over, the next does not start before the later of now and the pace after
the start; a live round changes nothing more; a dead one counts, flips, or faults the link. -/
def State.roundOver (s t : State) (k : Fin 4) (r : Round) : Prop :=
  ∀ (L : Link) (put : Link → State) (other : Polarity),
    L = { s.link k with
      round := none
      nextRound := some (if reached (r.start + ticks (s.link k).pace) s.runClock then s.runClock
        else r.start + ticks (s.link k).pace) } →
    (∀ M, put M = { s with links := s.links.set k M }) →
    other = (match L.polarity with
      | .normal => .swapped
      | .swapped => .normal) →
    (r.validSeen = true → t = put L)
    ∧ (r.validSeen = false →
      ((L.state = .active ∨ (L.state = .hunt ∧ L.polarityMode ≠ .auto ∧ 2 ≤ L.deadRounds)
          ∨ (L.state = .hunt ∧ L.polarityMode = .auto ∧ 5 ≤ L.deadRounds)) →
        t = ((put { L with state := .fault .noReplies, deadRounds := 0 }).notify none (.linkFault k .noReplies)).latch .link)
      ∧ (L.state = .hunt → L.polarityMode = .auto → L.deadRounds = 2 →
        t = (put { L with deadRounds := 3, polarity := other
                          stats := { L.stats with flips := satAdd L.stats.flips 1 } }).notify none (.linkPolarity k other))
      ∧ (L.state = .hunt → L.deadRounds < 2 ∨ (L.polarityMode = .auto ∧ 2 < L.deadRounds ∧ L.deadRounds < 5) →
        t = put { L with deadRounds := L.deadRounds + 1 })
      ∧ (∀ w, L.state = .fault w →
        (L.polarityMode = .auto → L.deadRounds < 2 → t = put { L with deadRounds := L.deadRounds + 1 })
        ∧ (L.polarityMode = .auto → 2 ≤ L.deadRounds →
          t = put { L with deadRounds := 0, polarity := other, stats := { L.stats with flips := satAdd L.stats.flips 1 } })
        ∧ (L.polarityMode ≠ .auto → t = put L))
      ∧ (L.state = .idle → t = put L))

/-- The end of the slot in progress of a round `r` of a link (R147, R148): the next slot's idle check begins, or the round is over. -/
def State.slotOver (s t : State) (k : Fin 4) (r : Round) : Prop :=
  (r.next + 1 < r.slots.length →
    t = { s with links := s.links.set k { s.link k with round := some { r with next := r.next + 1, phase := .idleCheck } } })
  ∧ (r.slots.length ≤ r.next + 1 → s.roundOver t k r)

/-- What taking a slot's outcome does to the link itself (R150, R152, R156): the statistics, the round's valid-seen flag, and, for a valid reply, the
link's state, with LINK_CLEARED from FAULT. -/
def State.tookLinkOutcome (s t : State) (k : Fin 4) (r : Round) (o : SlotOutcome) : Prop :=
  ∀ (L : Link) (put : Link → State),
    L = { s.link k with
      round := some { r with validSeen := r.validSeen || o.isValid }
      stats := { (s.link k).stats with
        pollsSent := satAdd (s.link k).stats.pollsSent 1
        goodReplies := match o with
          | .good _ => satAdd (s.link k).stats.goodReplies 1
          | .timeout | .checkError | .contentError => (s.link k).stats.goodReplies
        timeouts := if o = .timeout then satAdd (s.link k).stats.timeouts 1 else (s.link k).stats.timeouts
        checkErrors := if o = .checkError then satAdd (s.link k).stats.checkErrors 1 else (s.link k).stats.checkErrors
        contentErrors := if o = .contentError then satAdd (s.link k).stats.contentErrors 1 else (s.link k).stats.contentErrors } } →
    (∀ M, put M = { s with links := s.links.set k M }) →
    (o.isValid = false → t = put L)
    ∧ (o.isValid = true →
      (L.state = .hunt → t = put { L with state := .active, deadRounds := 0 })
      ∧ (∀ w, L.state = .fault w →
          t = (put { L with state := .active, deadRounds := 0 }).notify none (.linkCleared k L.polarity))
      ∧ (L.state = .active ∨ L.state = .idle → t = put L))

/-- What taking a slot's outcome does (R147, R150–R153, R156), in the order of R150: the link's counts and state, then the station's record and its
line unless the line rehearses, then the slot or the round; nothing of another link. -/
def State.tookOutcome (s t : State) (k : Fin 4) (r : Round) (st : Station) (o : SlotOutcome) : Prop :=
  (∃ u v : State, s.tookLinkOutcome u k r o
    ∧ (s.rehearsing st.line = true → v = u)
    ∧ (s.rehearsing st.line = false → match o with
      | .good rep => u.tookGood v st rep
      | .timeout | .checkError | .contentError => u.tookMiss v st)
    ∧ v.slotOver t k { r with validSeen := r.validSeen || o.isValid })
  ∧ (t.link k).stats.pollsSent = satAdd (s.link k).stats.pollsSent 1
  ∧ (t.link k).stats.goodReplies = (match o with
      | .good _ => satAdd (s.link k).stats.goodReplies 1
      | .timeout | .checkError | .contentError => (s.link k).stats.goodReplies)
  ∧ (t.link k).stats.timeouts = (if o = .timeout then satAdd (s.link k).stats.timeouts 1 else (s.link k).stats.timeouts)
  ∧ (t.link k).stats.checkErrors = (if o = .checkError then satAdd (s.link k).stats.checkErrors 1 else (s.link k).stats.checkErrors)
  ∧ (t.link k).stats.contentErrors = (if o = .contentError then satAdd (s.link k).stats.contentErrors 1 else (s.link k).stats.contentErrors)
  ∧ (t.link k).stats.busySkips = (s.link k).stats.busySkips
  ∧ (o.isValid = true → (s.link k).state ≠ .idle → (t.link k).state = .active)
  ∧ (o.isValid = true → ((s.link k).state = .hunt ∨ ∃ w, (s.link k).state = .fault w) → (t.link k).deadRounds = 0)
  ∧ (r.next + 1 < r.slots.length →
      (t.link k).round = some { r with next := r.next + 1, validSeen := r.validSeen || o.isValid, phase := .idleCheck }
      ∧ (o.isValid = false → (t.link k).state = (s.link k).state))
  ∧ (r.slots.length ≤ r.next + 1 → (t.link k).round = none
      ∧ (t.link k).nextRound = some (laterOfNow (r.start + ticks (s.link k).pace) s.runClock))
  ∧ (s.rehearsing st.line = true → t.stations = s.stations ∧ t.lines = s.lines)
  ∧ (s.rehearsing st.line = false → ∃ q, t.station? st.number = some q
      ∧ (match o with
        | .good rep => st.tookGood q rep (s.linkOf st).returnThreshold s.runClock
        | .timeout | .checkError | .contentError => st.tookMiss q (s.linkOf st).missThreshold))
  ∧ (∀ k', k' ≠ k → t.link k' = s.link k') ∧ t.host = s.host ∧ t.plant = s.plant ∧ t.triggers = s.triggers

/-! ## What a walk does -/

/-- What a walk of a live line does (R43; log 7): a root with a new key replaces a candidate's, or re-attributes a STOPPED line's stoppage, its
segment charged up to now and STOP_REATTRIBUTED queued; a root with the same key, or in another condition, nothing. -/
def State.walked (s t : State) (l : Fin 8) (ln : Line) (lv : Live) : Prop :=
  (∀ c, lv.condition = .candidate c →
    ((s.walk l).station = c.root.station ∧ (s.walk l).cause = c.root.cause → t = s)
    ∧ (¬((s.walk l).station = c.root.station ∧ (s.walk l).cause = c.root.cause) →
      t = s.setLine l (some { ln with live := some { lv with condition := .candidate { c with root := s.walk l } } })))
  ∧ (∀ st, lv.condition = .stopped st →
    ((s.walk l).station = st.root.station ∧ (s.walk l).cause = st.root.cause → t = s)
    ∧ (¬((s.walk l).station = st.root.station ∧ (s.walk l).cause = st.root.cause) → ∃ (n : Nat) (u : State),
      (st.segments < 4294967295 → n = st.segments + 1 ∧ u = s)
      ∧ (4294967295 ≤ st.segments → 1 ≤ n ∧ n ≤ 4294967295 ∧ u = { s with freeDraws := s.freeDraws + 1 })
      ∧ t = (u.setLine l (some { ln with live := some { lv with
          condition := .stopped { st with root := s.walk l, segmentStart := s.runClock, segments := n }, lastChange := s.runClock
          period := lv.period.chargeSegment st.root (s.runClock - st.segmentStart) } })).notify (some l)
            (.stopReattributed st.number (s.walk l) n)))
  ∧ ((∀ c, lv.condition ≠ .candidate c) → (∀ st, lv.condition ≠ .stopped st) → t = s)

/-! ## What a move of the Plant Clock does -/

/-- A trigger fires by a move that has left the clock at `c` (R139, R140; log 14 for a repeating trigger that becomes SPENT): the lines of its set
whose period is not empty are closed, its record is brought up, and TRIGGER_FIRED is queued, saying that the clock moved, with CLOCK latched. -/
def State.firedByMove (s t : State) (k : Fin 8) (c : PlantClock) : Prop :=
  ∃ (u : State) (closed : BitVec 8) (n next : Nat) (g : Trigger),
    u = (allLines.filter fun l => (s.trigger k).lines.getLsbD l.val && s.qualifies l).foldl (fun a l => a.closeLine l .trigger) s
    ∧ (∀ l : Fin 8, closed.getLsbD l.val = ((s.trigger k).lines.getLsbD l.val && s.qualifies l))
    ∧ n = (if (s.trigger k).interval = 0 then 0 else (c.seconds - (s.trigger k).time) / (s.trigger k).interval)
    ∧ next = (s.trigger k).time + (s.trigger k).interval * (n + 1)
    ∧ g = { s.trigger k with
        lastFired := some { seconds := c.seconds, hundredths := (s.runClock - c.boundary).toNat }
        skipped := min ((s.trigger k).skipped + n) 4294967295
        state := if (s.trigger k).interval = 0 ∨ 4294967295 < next then .spent else .armed
        time := if (s.trigger k).interval = 0 ∨ 4294967295 < next then (s.trigger k).time else next }
    ∧ t = (({ u with triggers := s.triggers.set k g } : State).notify none
        (.triggerFired k closed ((s.trigger k).lines &&& ~~~closed) n true)).latch .clock

/-- A move of the Plant Clock to `c` that is not backward (R140; log 15 for a move by 0): the triggers are examined in ascending order, and each
ARMED one whose time the clock has reached fires; `fired` is their set, bit k for trigger k. -/
def State.movedForward (s t : State) (c : PlantClock) (fired : Nat) : Prop :=
  (∃ u : Nat → State, u 0 = { s with plant := some c } ∧ u 8 = t
    ∧ ∀ k : Fin 8,
      ((s.trigger k).state = .armed ∧ (s.trigger k).time ≤ c.seconds → (u k.val).firedByMove (u (k.val + 1)) k c)
      ∧ (¬((s.trigger k).state = .armed ∧ (s.trigger k).time ≤ c.seconds) → u (k.val + 1) = u k.val))
  ∧ fired < 256
  ∧ ∀ k : Fin 8, fired.testBit k.val = true ↔ (s.trigger k).state = .armed ∧ (s.trigger k).time ≤ c.seconds

/-! ## Frames -/

/-- What an act on the lines of a set leaves: every other line with its records and counters, every record of a station elsewhere, and
everything that is not a line's, a link's, a trigger's or the Journal's queue; a latched attention flag stays set. -/
structure State.SameBeside (s t : State) (lines : Fin 8 → Prop) : Prop where
  pending    : t.pending = s.pending
  resetPhase : t.resetPhase = s.resetPhase
  partState  : t.partState = s.partState
  runClock   : t.runClock = s.runClock
  snapshot   : t.snapshot = s.snapshot
  causeMap   : t.causeMap = s.causeMap
  mask       : t.journal.mask = s.journal.mask
  watermark  : t.journal.watermark = s.journal.watermark
  enables    : t.attention.enables = s.attention.enables
  mode       : t.attention.mode = s.attention.mode
  latched    : ∀ f, s.attention.flags.get f = true → t.attention.flags.get f = true
  defined    : ∀ l, (t.line? l).map (·.defn) = (s.line? l).map (·.defn)
  others     : ∀ l, ¬lines l → t.line? l = s.line? l ∧ t.store[l] = s.store[l] ∧ t.lastStoppage[l] = s.lastStoppage[l]
                 ∧ t.periodCounter[l] = s.periodCounter[l]
  stations   : t.stations.map Station.config = s.stations.map Station.config
  elsewhere  : ∀ r ∈ s.stations, ¬lines r.line → r ∈ t.stations

end Sys2Proof.Machine
end

