-- ==== Sys2Proof/Certificates/Slice0/Obligations.lean ====
section
/-! DEFINITION. The statements for the provers, by chapter of the manual. `l` is a line, `k` a link or trigger, `p` the payload of a request;
a log number names notes/assumptions/<n>.md. A payload byte is read by `u8`, a two- or four-byte field by `u16` and `u32` (R191). -/

open Sys2Proof Sys2Proof.Machine

/-! ## The queue of commands -/

/-- A step takes the command at the front of the queue and runs it with the rest of the queue. The empty queue's idling is log 4. -/
def Obligations.StepTakesTheFrontCommand : Prop :=
  (∀ (c : Instr) (q : List Instr) (s : State), step { s with pending := c :: q } = exec c { s with pending := q })
  ∧ ∀ s : State, s.pending = [] → step s = .next s

/-- No command stops the part, and none touches the queue of those behind it; free values drawn stay drawn.
The queue is the model's (log 22), and so is the count of free values drawn (log 23). -/
def Obligations.EveryCommandAnswersANextState : Prop :=
  ∀ (c : Instr) (s : State), ∃ t, exec c s = .next t ∧ t.pending = s.pending ∧ s.freeDraws ≤ t.freeDraws

/-! ## Reset and start-up (R189) -/

/-- The values after RESET# and RESTART: the table of R189, with the defaults that its rules name; and every soundness statement of this
file holds of them. -/
def Obligations.ResetValues : Prop :=
  State.reset.partState = .configuring ∧ State.reset.host.overrun = false ∧ State.reset.host.sending = none
  ∧ State.reset.host.receiver = .idle
  ∧ State.reset.stations = [] ∧ (∀ l, State.reset.line? l = none) ∧ (∀ l : Fin 8, State.reset.lastStoppage[l] = 0#32)
  ∧ State.reset.causeMap = []
  ∧ (∀ l : Fin 8, State.reset.periodCounter[l] = 0#32 ∧ State.reset.store[l] = []) ∧ State.reset.snapshot = none
  ∧ State.reset.runClock = 0#32 ∧ State.reset.plant = none
  ∧ (∀ k, State.reset.trigger k =
      { state := .disarmed, time := 0, interval := 0, lines := 0#8, lastFired := none, skipped := 0 })
  ∧ (∀ k, State.reset.link k =
      { bitRate := .b250000, polarityMode := .auto, pace := 10, missThreshold := 4, returnThreshold := 2, state := .idle
        polarity := .normal, round := none, nextRound := none, deadRounds := 0, busyRun := 0
        stats := { pollsSent := 0, goodReplies := 0, timeouts := 0, checkErrors := 0, contentErrors := 0, busySkips := 0, flips := 0 } })
  ∧ State.reset.journal = { queue := [], nextSequence := 0#16, gapCount := 0, mask := 0#16, watermark := 384 }
  ∧ State.reset.attention =
      { flags := { link := false, stop := false, period := false, high := false, clock := false, notice := false }
        enables := { link := true, stop := true, period := true, high := true, clock := true, notice := true }, mode := .level }
  ∧ State.reset.resetSound ∧ State.reset.accountSound ∧ State.reset.storeSound
  ∧ State.reset.journalSound ∧ causeMapSound State.reset.causeMap ∧ State.reset.enrollmentSound ∧ State.reset.partSound
  ∧ State.reset.linksSound

/-- RESET# puts every block at its values after reset, its release begins start-up, and the end of start-up samples the pins and sets the
receiver hunting. The end of a response ends its sending, and RESTART's resets the part, which then starts up. The queue and the model's count of free
values stay (log 23); a release or an end that cannot occur does nothing (log 2). -/
def Obligations.ResetStartUpAndResponseEnd : Prop :=
  ∀ s : State,
    exec .resetPin s = .next { State.reset with pending := s.pending, freeDraws := s.freeDraws, resetPhase := .held }
    ∧ (s.resetPhase = .held → exec .resetRelease s = .next { s with resetPhase := .startUp })
    ∧ (s.resetPhase ≠ .held → exec .resetRelease s = .next s)
    ∧ (s.resetPhase = .startUp → ∀ rate1 rate0, exec (.startUpEnd rate1 rate0) s = .next
        { s with resetPhase := .running
                 host := { s.host with receiver := .hunting, rate1 := rate1, rate0 := rate0 } })
    ∧ (s.resetPhase ≠ .startUp → ∀ rate1 rate0, exec (.startUpEnd rate1 rate0) s = .next s)
    ∧ (∀ r, s.host.sending = some r →
      (r.kind = 0xBF#8 ∧ r.result = .ok →
        exec .responseSent s = .next { State.reset with pending := s.pending, freeDraws := s.freeDraws })
      ∧ (¬(r.kind = 0xBF#8 ∧ r.result = .ok) → exec .responseSent s = .next { s with host := { s.host with sending := none } }))
    ∧ (s.host.sending = none → exec .responseSent s = .next s)

/-- While RESET# is held, and during start-up, every block holds its values after reset: every step keeps this. -/
def Obligations.ResetHoldsEveryBlock : Prop := ∀ s t : State, s.resetSound → step s = .next t → t.resetSound

/-! ## The host link (R181–R184) -/

/-- What becomes of a request: lost while the receiver is idle; discarded with the overrun flag set while a response is being sent; refused
with BAD_LENGTH; else answered, its response carrying its kind with the top bit set, and the overrun flag. -/
def Obligations.RequestIsLostDiscardedRefusedOrAnswered : Prop :=
  ∀ (i : Instr) (kind : Byte) (lengths : List Nat) (p : List Byte) (s : State), requestForm i = some (kind, lengths, p) →
    (s.host.receiver = .idle → exec i s = .next s)
    ∧ (s.host.receiver ≠ .idle → s.host.sending.isSome → exec i s = .next { s with host := { s.host with overrun := true } })
    ∧ (s.ready → p.length ∉ lengths → exec i s = .next
        { s with host := { s.host with
            sending := some { kind := kind ||| 0x80#8, result := .badLength, overrun := s.host.overrun, payload := [] }
            overrun := false } })
    ∧ (s.ready → p.length ∈ lengths → ∃ t r, exec i s = .next t
        ∧ t.host = { s.host with sending := some r, overrun := false }
        ∧ r.kind = kind ||| 0x80#8 ∧ r.overrun = s.host.overrun)

/-- The receiver byte by byte: an idle one takes nothing; a hunting one drops every byte but A5h, which begins a frame; a collecting one keeps
a byte that leaves its frame incomplete. A character gap discards the incomplete frame, and every incomplete frame found in its bytes
(log 10). -/
def Obligations.ReceiverHuntsAndCollects : Prop :=
  ∀ (s : State) (b : Byte),
    (s.host.receiver = .idle → exec (.hostByteReceived b) s = .next s)
    ∧ (s.host.receiver = .hunting → b ≠ 0xA5#8 → exec (.hostByteReceived b) s = .next s)
    ∧ (s.host.receiver = .hunting → b = 0xA5#8 →
        exec (.hostByteReceived b) s = .next { s with host := { s.host with receiver := .collecting [] } })
    ∧ (∀ bytes, s.host.receiver = .collecting bytes → scanFrame (bytes ++ [b]) = .incomplete →
        exec (.hostByteReceived b) s = .next { s with host := { s.host with receiver := .collecting (bytes ++ [b]) } })
    ∧ (∀ bytes, s.host.receiver = .collecting bytes → ∃ t, exec .hostCharacterGapExpiry s = .next t ∧ t.host.receiver = .hunting
      ∧ (0xA5#8 ∉ bytes → scanFrame bytes = .incomplete → t = { s with host := { s.host with receiver := .hunting } }))
    ∧ (s.host.receiver = .hunting ∨ s.host.receiver = .idle → exec .hostCharacterGapExpiry s = .next s)

/-- A frame of a request completes at its last check byte, and is that request; a kind that names no request is answered UNKNOWN_KIND, or
discarded with the overrun flag set while a response is being sent. The receiver goes on hunting. -/
def Obligations.LastByteOfAFrameIsItsRequest : Prop :=
  ∀ (kind : Byte) (p bytes : List Byte) (b : Byte) (s : State), p.length ≤ 256 → s.host.receiver = .collecting bytes →
    bytes ++ [b] = (requestFrame kind p).tail →
    (∀ i lengths, requestForm i = some (kind, lengths, p) →
      exec (.hostByteReceived b) s = exec i { s with host := { s.host with receiver := .hunting } })
    ∧ ((∀ i lengths q, requestForm i ≠ some (kind, lengths, q)) → s.host.sending = none →
      exec (.hostByteReceived b) s = .next
        { s with host := { s.host with
            receiver := .hunting
            sending := some { kind := kind ||| 0x80#8, result := .unknownKind, overrun := s.host.overrun, payload := [] }
            overrun := false } })
    ∧ ((∀ i lengths q, requestForm i ≠ some (kind, lengths, q)) → s.host.sending.isSome →
      exec (.hostByteReceived b) s = .next { s with host := { s.host with receiver := .hunting, overrun := true } })

/-- The frame the host sends is the frame the receiver reads, whatever follows it, and no beginning of it is taken for a frame or for a
damaged one. -/
def Obligations.FramesReadBackWhole : Prop :=
  ∀ (kind : Byte) (p rest : List Byte), p.length ≤ 256 →
    scanFrame ((requestFrame kind p).tail ++ rest) = .good kind p rest
    ∧ ∀ n, n < (requestFrame kind p).tail.length → scanFrame ((requestFrame kind p).tail.take n) = .incomplete

/-- The bytes of a frame whose length or check is bad are examined again, from the byte after its start byte, as though each arrived anew while
the receiver hunts. The frames found are taken at the tick of the re-examination (log 24). -/
def Obligations.BadFrameIsExaminedAgain : Prop :=
  ∀ (bytes : List Byte) (b : Byte) (s : State), s.host.receiver = .collecting bytes → scanFrame (bytes ++ [b]) = .bad →
    exec (.hostByteReceived b) s =
      .next ((bytes ++ [b]).foldl State.takeHostByte { s with host := { s.host with receiver := .hunting } })

/-- IDENTIFY answers the identity, the part state and the capacities; RESTART answers OK and waits for the end of its response. The widths of
IDENTIFY's items are log 9. -/
def Obligations.IdentifyAndRestartAreAnswered : Prop :=
  ∀ s : State, s.ready →
    exec (.identify []) s = .next (s.respond 0x3E#8 (.ok
      (enc2 0x0E21 ++ [0x50#8, 0x45#8, 0x4E#8, 0x54#8, 0x48#8, 0x41#8] ++ enc2 896 ++ enc1 1
        ++ enc1 (match s.partState with | .configuring => 0 | .monitoring => 1)
        ++ [8#8, 96#8, 4#8, 24#8, 16#8] ++ enc2 512 ++ enc2 512 ++ [3#8, 8#8, 48#8, 4#8] ++ enc2 256 ++ [254#8])))
    ∧ exec (.restart []) s = .next (s.respond 0x3F#8 .ok)

/-- Every response fits its frame: at most 254 bytes of payload, over a Period Store of at most three records a line. -/
def Obligations.ResponsesFitTheirFrame : Prop :=
  ∀ (i : Instr) (s t : State) (r : Response), s.storeSound → s.host.sending = none → exec i s = .next t →
    t.host.sending = some r → r.payload.length ≤ 254

/-! ## The Journal and the Attention Unit (chapter 10) -/

/-- One notice at a time: a masked kind changes nothing; with room and no gap it is queued under the next sequence; else it is counted. R177: a
queuing, the GAP notice's included, latches HIGH exactly when the queue then stands at the watermark, and a removal leaves HIGH. A notice that
comes when a GAP notice has filled the queue again is counted, as any notice without room (log 29). -/
def Obligations.NoticeIsMaskedQueuedOrCountedAndHighLatched : Prop :=
  ∀ (s : State) (line : Option (Fin 8)) (body : NoticeBody),
    (s.journal.mask.getLsbD body.kind = true → s.notify line body = s)
    ∧ (s.journal.mask.getLsbD body.kind = false → s.journal.queue.length < 512 → s.journal.gapCount = 0 →
        s.notify line body =
          { s with
            journal := { s.journal with
              queue := s.journal.queue ++ [{ sequence := s.journal.nextSequence, line := line, tick := s.runClock
                                             plant := s.plantTime, body := body }]
              nextSequence := s.journal.nextSequence + 1 }
            attention := { s.attention with flags := { s.attention.flags with
              notice := s.attention.flags.notice || s.journal.queue.isEmpty || s.attention.mode == .level
              high := s.attention.flags.high || s.journal.queue.length + 1 == s.journal.watermark } } })
    ∧ (s.journal.mask.getLsbD body.kind = false → ¬(s.journal.queue.length < 512 ∧ s.journal.gapCount = 0) →
        s.notify line body = { s with journal := { s.journal with gapCount := min (s.journal.gapCount + 1) 4294967295 } })
    ∧ (s.enqueue line body).attention.flags.high = (s.attention.flags.high || s.journal.queue.length + 1 == s.journal.watermark)
    ∧ (s.enqueue line body).journal.queue.length = s.journal.queue.length + 1
    ∧ ∀ n, (s.dropNotices n).attention.flags.high = s.attention.flags.high

/-- The Journal's law and LEVEL's: at most 512 notices, numbered consecutively up to the next sequence, 512 of them while notices are lost; in
mode LEVEL, NOTICE set exactly while there is one. Every step keeps them. -/
def Obligations.JournalStaysSound : Prop := ∀ s t : State, s.journalSound → step s = .next t → t.journalSound

/-- TAKE_NOTICES removes the oldest n notices, then queues the GAP notice if notices were lost, and answers what it took. HIGH stays set, and the
GAP notice latches it when the queue then stands at the watermark (R177). -/
def Obligations.TakeNoticesRemovesTheOldest : Prop :=
  ∀ (s : State) (p : List Byte), s.ready → p.length = 1 →
    (u8 p 0 < 1 ∨ 10 < u8 p 0 → exec (.takeNotices p) s = .next (s.respond 0x38#8 .badValue))
    ∧ (1 ≤ u8 p 0 → u8 p 0 ≤ 10 → s.journal.queue = [] → exec (.takeNotices p) s = .next (s.respond 0x38#8 (.refuse .empty)))
    ∧ (1 ≤ u8 p 0 → u8 p 0 ≤ 10 → s.journal.queue ≠ [] → ∃ t : State,
        exec (.takeNotices p) s = .next (t.respond 0x38#8 (.ok (encList Notice.bytes (s.journal.queue.take (u8 p 0))
          ++ enc2 t.journal.queue.length ++ enc4 t.journal.gapCount ++ enc2 t.journal.nextSequence.toNat)))
        ∧ t = { s with journal := t.journal, attention := t.attention }
        ∧ (s.journal.gapCount = 0 → t.journal = { s.journal with queue := s.journal.queue.drop (u8 p 0) })
        ∧ (0 < s.journal.gapCount → t.journal =
            { s.journal with
              queue := s.journal.queue.drop (u8 p 0)
                ++ [{ sequence := s.journal.nextSequence, line := none, tick := s.runClock, plant := s.plantTime
                      body := .gap s.journal.gapCount }]
              nextSequence := s.journal.nextSequence + 1, gapCount := 0 })
        ∧ (s.attention.mode = .level → t.attention.flags.notice = !t.journal.queue.isEmpty)
        ∧ (s.attention.mode = .first → s.attention.flags.notice = true → t.attention.flags.notice = true)
        ∧ (s.attention.mode = .first → s.journal.gapCount = 0 → t.attention.flags.notice = s.attention.flags.notice)
        ∧ t.attention.flags.high = (s.attention.flags.high
            || (decide (0 < s.journal.gapCount) && (s.journal.queue.drop (u8 p 0)).length + 1 == s.journal.watermark))
        ∧ { t.attention.flags with notice := false, high := false } = { s.attention.flags with notice := false, high := false }
        ∧ t.attention.enables = s.attention.enables ∧ t.attention.mode = s.attention.mode)

/-- R173, both requests. The empty set unmasks every kind, and neither request touches the queue, the gap count or a flag. -/
def Obligations.NoticeMaskAndWatermarkAreSet : Prop :=
  ∀ (s : State) (p : List Byte), s.ready →
    (p.length ≠ 2 → exec (.setNoticeMask p) s = .next (s.respond 0x39#8 (.refuse .badLength))
      ∧ exec (.setWatermark p) s = .next (s.respond 0x3A#8 (.refuse .badLength)))
    ∧ (p.length = 2 → (BitVec.ofNat 16 (u16 p 0)).getLsbD 15 = true → exec (.setNoticeMask p) s = .next (s.respond 0x39#8 .badValue))
    ∧ (p.length = 2 → (BitVec.ofNat 16 (u16 p 0)).getLsbD 15 = false →
        exec (.setNoticeMask p) s =
          .next ({ s with journal := { s.journal with mask := BitVec.ofNat 16 (u16 p 0) } }.respond 0x39#8 .ok))
    ∧ (p.length = 2 → u16 p 0 < 1 ∨ 512 < u16 p 0 → exec (.setWatermark p) s = .next (s.respond 0x3A#8 .badValue))
    ∧ (p.length = 2 → 1 ≤ u16 p 0 → u16 p 0 ≤ 512 →
        exec (.setWatermark p) s = .next ({ s with journal := { s.journal with watermark := u16 p 0 } }.respond 0x3A#8 .ok))
    ∧ ∀ (line : Option (Fin 8)) (body : NoticeBody),
        (s.journal.mask.getLsbD body.kind = true → s.notify line body = s)
        ∧ (s.journal.mask.getLsbD body.kind = false → s.journal.queue.length < 512 → s.journal.gapCount = 0 →
            (s.notify line body).journal.queue.length = s.journal.queue.length + 1)

/-- READ_ATTENTION (R178). The items are encoded as sections 11.5 and 11.6 have it; that the queue length has two bytes is log 9. -/
def Obligations.ReadAttentionAnswersTheUnit : Prop :=
  ∀ (s : State) (p : List Byte), s.ready →
    (p.length ≠ 0 → exec (.readAttention p) s = .next (s.respond 0x3B#8 (.refuse .badLength)))
    ∧ exec (.readAttention []) s = .next (s.respond 0x3B#8 (.ok
        (enc1 s.attention.flags.toMask ++ enc1 s.attention.enables.toMask ++ enc1 s.attention.mode.code
          ++ enc1 (if s.attention.flags.link then 0 else if s.attention.flags.stop then 1 else if s.attention.flags.period then 2
              else if s.attention.flags.high then 3 else if s.attention.flags.clock then 4
              else if s.attention.flags.notice then 5 else 255)
          ++ enc2 s.journal.queue.length ++ enc4 s.journal.gapCount ++ enc2 s.journal.watermark
          ++ enc2 s.journal.nextSequence.toNat)))

/-- CLEAR_ATTENTION clears each flag named, but NOTICE in mode LEVEL while a notice is queued; SET_ATTENTION sets the enables and the mode, and
a change to LEVEL sets NOTICE from the queue. Bit k of a set is flag k in order of priority, from LINK. -/
def Obligations.AttentionIsClearedAndSet : Prop :=
  ∀ (s : State) (p : List Byte), s.ready →
    (p.length ≠ 1 → exec (.clearAttention p) s = .next (s.respond 0x3C#8 (.refuse .badLength)))
    ∧ (p.length = 1 → 64 ≤ u8 p 0 → exec (.clearAttention p) s = .next (s.respond 0x3C#8 .badValue))
    ∧ (p.length = 1 → u8 p 0 < 64 → ∃ f : AttentionSet,
        exec (.clearAttention p) s =
          .next ({ s with attention := { s.attention with flags := f } }.respond 0x3C#8 (.ok (enc1 f.toMask)))
        ∧ f.link = (s.attention.flags.link && !(u8 p 0).testBit 0) ∧ f.stop = (s.attention.flags.stop && !(u8 p 0).testBit 1)
        ∧ f.period = (s.attention.flags.period && !(u8 p 0).testBit 2) ∧ f.high = (s.attention.flags.high && !(u8 p 0).testBit 3)
        ∧ f.clock = (s.attention.flags.clock && !(u8 p 0).testBit 4)
        ∧ f.notice = (s.attention.flags.notice
            && !((u8 p 0).testBit 5 && (s.attention.mode == NoticeMode.first || s.journal.queue.isEmpty))))
    ∧ (p.length ≠ 2 → exec (.setAttention p) s = .next (s.respond 0x3D#8 (.refuse .badLength)))
    ∧ (p.length = 2 → 64 ≤ u8 p 0 ∨ 1 < u8 p 1 → exec (.setAttention p) s = .next (s.respond 0x3D#8 .badValue))
    ∧ (p.length = 2 → u8 p 0 < 64 → u8 p 1 ≤ 1 →
        exec (.setAttention p) s = .next ({ s with attention :=
          { flags := { s.attention.flags with
              notice := if s.attention.mode = NoticeMode.first ∧ u8 p 1 = 0 then !s.journal.queue.isEmpty else s.attention.flags.notice }
            enables := { link := (u8 p 0).testBit 0, stop := (u8 p 0).testBit 1, period := (u8 p 0).testBit 2
                         high := (u8 p 0).testBit 3, clock := (u8 p 0).testBit 4, notice := (u8 p 0).testBit 5 }
            mode := if u8 p 1 = 0 then .level else .first } }.respond 0x3D#8 .ok))

/-- R180: ATTN# is asserted exactly when a latched flag has its enable set, and never while a reset or start-up holds every block. -/
def Obligations.AttnFollowsLatchedAndEnabled : Prop :=
  ∀ s : State,
    (s.attention.asserted = true ↔ ∃ f : AttentionFlag, s.attention.flags.get f = true ∧ s.attention.enables.get f = true)
    ∧ (s.resetSound → s.resetPhase ≠ .running → s.attention.asserted = false)

/-! ## The clocks (chapter 7) -/

/-- RUN_CLOCK_TICK advances the Run Clock by 1, modulo 2^32, whatever the part state, and does not while RESET# holds it at 0 (log 3).
PLANT_SECOND_ADVANCE and PLANT_CLOCK_LIMIT: when 100 ticks have passed since the second boundary, the seconds and the boundary advance, or
past 4,294,967,295 the clock becomes unset. Otherwise neither does anything (log 2). -/
def Obligations.ClocksAdvance : Prop :=
  ∀ s : State,
    (s.resetPhase ≠ .held → exec .runClockTick s = .next { s with runClock := s.runClock + 1 })
    ∧ (s.resetPhase = .held → exec .runClockTick s = .next s) ∧
    (∀ c, s.plant = some c → 100 ≤ (s.runClock - c.boundary).toNat → c.seconds < 4294967295 →
      exec .plantSecondAdvance s = .next { s with plant := some { seconds := c.seconds + 1, boundary := c.boundary + 100#32 } }
      ∧ exec .plantClockLimit s = .next s)
    ∧ (∀ c, s.plant = some c → 100 ≤ (s.runClock - c.boundary).toNat → 4294967295 ≤ c.seconds →
      exec .plantClockLimit s = .next { s with plant := none } ∧ exec .plantSecondAdvance s = .next s)
    ∧ (∀ c, s.plant = some c → (s.runClock - c.boundary).toNat < 100 →
      exec .plantSecondAdvance s = .next s ∧ exec .plantClockLimit s = .next s)
    ∧ (s.plant = none → exec .plantSecondAdvance s = .next s ∧ exec .plantClockLimit s = .next s)

/-- LOAD_CLOCK sets the clock to the request's seconds, its second beginning now. With no trigger reached, it changes nothing else and its
response names no trigger; a move that is not backward makes each ARMED trigger that it reaches expire, and its response names those.
A LOAD_CLOCK of the seconds held is such a move (log 15). The set of triggers in both responses is one byte, bit k for trigger k (log 9).
STEP_CLOCK: its three checks in order, then the seconds move by the offset and the boundary stays; an offset of 0 changes nothing, a backward move
nothing else, and a forward move makes each ARMED trigger that it reaches expire, as `State.movedForward` says for both requests (R140). -/
def Obligations.LoadAndStepMoveThePlantClock : Prop :=
  ∀ (s : State) (p : List Byte), s.ready → p.length = 4 →
    (s32 p 0 < -604800 ∨ 604800 < s32 p 0 → exec (.stepClock p) s = .next (s.respond 0x29#8 .badValue))
    ∧ (-604800 ≤ s32 p 0 → s32 p 0 ≤ 604800 →
        (s.plantNow = none → exec (.stepClock p) s = .next (s.respond 0x29#8 (.refuse .clockUnset)))
        ∧ ∀ c, s.plantNow = some c →
          ((c.seconds : Int) + s32 p 0 < 0 ∨ 4294967295 < (c.seconds : Int) + s32 p 0 →
            exec (.stepClock p) s = .next (s.respond 0x29#8 .badValue))
          ∧ (0 ≤ (c.seconds : Int) + s32 p 0 → (c.seconds : Int) + s32 p 0 ≤ 4294967295 →
            (s32 p 0 = 0 → exec (.stepClock p) s = .next (s.respond 0x29#8 (.ok [0#8])))
            ∧ (s32 p 0 ≠ 0 → ∃ (t : State) (fired : Nat), exec (.stepClock p) s = .next (t.respond 0x29#8 (.ok (enc1 fired)))
                ∧ t.plant = some { seconds := ((c.seconds : Int) + s32 p 0).toNat, boundary := c.boundary }
                ∧ t.runClock = s.runClock
                ∧ (s32 p 0 < 0 → fired = 0 ∧ t = { s with plant := t.plant })
                ∧ (0 < s32 p 0 → s.movedForward t { seconds := ((c.seconds : Int) + s32 p 0).toNat, boundary := c.boundary } fired))))
    ∧
    (s.plantNow = none ∨ (∃ c, s.plantNow = some c ∧ u32 p 0 < c.seconds)
        ∨ (∀ k, (s.trigger k).state = .armed → u32 p 0 < (s.trigger k).time) →
      exec (.loadClock p) s =
        .next ({ s with plant := some { seconds := u32 p 0, boundary := s.runClock } }.respond 0x28#8 (.ok [0#8])))
    ∧ ∃ (t : State) (fired : Nat), exec (.loadClock p) s = .next (t.respond 0x28#8 (.ok (enc1 fired)))
        ∧ t.plant = some { seconds := u32 p 0, boundary := s.runClock } ∧ t.runClock = s.runClock
        ∧ (∀ k, (s.trigger k).state ≠ .armed ∨ u32 p 0 < (s.trigger k).time → t.trigger k = s.trigger k ∧ fired.testBit k.val = false)
        ∧ (∀ c k, s.plantNow = some c → c.seconds ≤ u32 p 0 → (s.trigger k).state = .armed → (s.trigger k).time ≤ u32 p 0 →
          fired.testBit k.val = true ∧ t.attention.flags.clock = true
          ∧ (t.trigger k).lastFired = some { seconds := u32 p 0, hundredths := 0 }
          ∧ ((t.trigger k).state = .spent ∨ ((t.trigger k).state = .armed ∧ u32 p 0 < (t.trigger k).time)))
        ∧ (∀ c, s.plantNow = some c → c.seconds ≤ u32 p 0 → s.movedForward t { seconds := u32 p 0, boundary := s.runClock } fired)

/-! ## The triggers (chapter 7) -/

/-- ARM_TRIGGER: its three checks in order, then the trigger alone changes. -/
def Obligations.ArmTriggerArmsOneTrigger : Prop :=
  ∀ (s : State) (p : List Byte), s.ready → p.length = 10 →
    ((∀ k : Fin 8, u8 p 0 = k.val → (u32 p 5 = 0 ∨ (60 ≤ u32 p 5 ∧ u32 p 5 ≤ 604800)) → u8 p 9 ≠ 0 →
        (s.plantNow = none → exec (.armTrigger p) s = .next (s.respond 0x2B#8 (.refuse .clockUnset)))
        ∧ ∀ c, s.plantNow = some c →
          (u32 p 1 ≤ c.seconds → exec (.armTrigger p) s = .next (s.respond 0x2B#8 (.refuse .late)))
          ∧ (c.seconds < u32 p 1 → exec (.armTrigger p) s = .next
              ({ s with triggers := s.triggers.set k (
                  { state := .armed, time := u32 p 1, interval := u32 p 5, lines := BitVec.ofNat 8 (u8 p 9)
                    lastFired := none, skipped := 0 } : Trigger) }.respond 0x2B#8 .ok)))
    ∧ (7 < u8 p 0 ∨ (u32 p 5 ≠ 0 ∧ (u32 p 5 < 60 ∨ 604800 < u32 p 5)) ∨ u8 p 9 = 0 →
        exec (.armTrigger p) s = .next (s.respond 0x2B#8 .badValue)))

/-- READ_CLOCK, DISARM_TRIGGER and READ_TRIGGERS (R137, R141). The layouts of the responses are section 11.6's, as far as it gives them, and
log 9's. -/
def Obligations.ClocksAndTriggersAreReadAndDisarmed : Prop :=
  ∀ (s : State) (p : List Byte), s.ready →
    (p.length ≠ 0 → exec (.readClock p) s = .next (s.respond 0x2A#8 (.refuse .badLength)))
    ∧ exec (.readClock []) s = .next (s.respond 0x2A#8 (.ok
        ((match s.plantTime with
          | some t => [1#8] ++ enc4 t.seconds ++ enc1 t.hundredths
          | none => [0#8] ++ enc4 0 ++ [255#8]) ++ enc4 s.runClock.toNat)))
    ∧
    (p.length = 1 → 7 < u8 p 0 → exec (.disarmTrigger p) s = .next (s.respond 0x2C#8 .badValue))
    ∧ (∀ k : Fin 8, p.length = 1 → u8 p 0 = k.val → exec (.disarmTrigger p) s =
        .next ({ s with triggers := s.triggers.set k ({ s.trigger k with state := .disarmed } : Trigger) }.respond 0x2C#8 .ok))
    ∧ (p.length ≠ 0 → exec (.readTriggers p) s = .next (s.respond 0x2D#8 (.refuse .badLength)))
    ∧ exec (.readTriggers []) s = .next (s.respond 0x2D#8 (.ok
        ([8#8] ++ s.triggers.toList.flatMap (fun t =>
            enc1 t.state.code ++ enc4 t.time ++ enc4 t.interval ++ enc1 t.lines.toNat ++ encPlant t.lastFired ++ enc4 t.skipped)
          ++ (match s.plantNow with
              | some c => [1#8] ++ enc4 c.seconds
              | none => [0#8] ++ enc4 0)
          ++ enc4 s.runClock.toNat)))

/-- TRIGGER_EXPIRY of an ARMED trigger whose time the clock has reached (R139): each line of its set whose period is not empty is closed, its
time advances past the plant seconds or it becomes SPENT, and TRIGGER_FIRED is queued after the closes with CLOCK latched.
The time and the skipped count of a repeating trigger that becomes SPENT are log 14; that the expiry is taken at any second past the time is
log 3; the record of a close is settled as log 28 has it. -/
def Obligations.TriggerExpiryClosesItsLines : Prop :=
  ∀ (s : State) (k : Fin 8) (c : PlantClock), s.plantNow = some c → (s.trigger k).state = .armed → (s.trigger k).time ≤ c.seconds →
    ∃ t, exec (.triggerExpiry k) s = .next t ∧ t.attention.flags.clock = true
      ∧ (t.trigger k).lastFired = s.plantTime ∧ (t.trigger k).lines = (s.trigger k).lines
      ∧ (t.trigger k).interval = (s.trigger k).interval
      ∧ ((s.trigger k).interval = 0 → (t.trigger k).state = .spent ∧ (t.trigger k).time = (s.trigger k).time
          ∧ (t.trigger k).skipped = min (s.trigger k).skipped 4294967295)
      ∧ (0 < (s.trigger k).interval → (t.trigger k).state = .armed →
          c.seconds < (t.trigger k).time ∧ (t.trigger k).time ≤ c.seconds + (s.trigger k).interval
          ∧ (t.trigger k).time ≤ 4294967295
          ∧ ∃ n, (t.trigger k).time = (s.trigger k).time + (n + 1) * (s.trigger k).interval
            ∧ (t.trigger k).skipped = min ((s.trigger k).skipped + n) 4294967295)
      ∧ (0 < (s.trigger k).interval →
          ((t.trigger k).state = .armed ↔ (s.trigger k).time
            + (s.trigger k).interval * ((c.seconds - (s.trigger k).time) / (s.trigger k).interval + 1) ≤ 4294967295)
          ∧ ((t.trigger k).state = .armed ∨ ((t.trigger k).state = .spent ∧ (t.trigger k).time = (s.trigger k).time)))
      ∧ (∀ k', k' ≠ k → t.trigger k' = s.trigger k')
      ∧ (∃ (u : State) (closed : BitVec 8) (n : Nat),
          u = (allLines.filter fun l => (s.trigger k).lines.getLsbD l.val && s.qualifies l).foldl (fun a l => a.closeLine l .trigger) s
          ∧ (∀ l : Fin 8, closed.getLsbD l.val = ((s.trigger k).lines.getLsbD l.val && s.qualifies l))
          ∧ ((s.trigger k).interval = 0 → n = 0)
          ∧ (0 < (s.trigger k).interval → n = (c.seconds - (s.trigger k).time) / (s.trigger k).interval)
          ∧ t = (({ u with triggers := t.triggers } : State).notify none
              (.triggerFired k closed ((s.trigger k).lines &&& ~~~closed) n false)).latch .clock)
      ∧ (∀ l : Fin 8, (s.trigger k).lines.getLsbD l.val = false ∨ s.qualifies l = false →
          t.line? l = s.line? l ∧ t.store[l] = s.store[l] ∧ t.periodCounter[l] = s.periodCounter[l])
      ∧ (∀ l : Fin 8, (s.trigger k).lines.getLsbD l.val = true → s.qualifies l = true → ∀ ln lv, s.onLine l ln lv →
          t.store[l] = placeIn s.store[l]
            (lv.freeze (lv.settled s.runClock (lineStations s.stations l)) s.runClock s.plantTime .trigger)
          ∧ ∃ lv', t.live? l = some lv' ∧ lv'.period.start = s.runClock)

/-! ## The Cause Map and the walk (chapter 2) -/

/-- R47: a request in range replaces the entry of its key or adds one in key order; a full map refuses a new key; the rest is BAD_VALUE. -/
def Obligations.MapCauseReplacesOrAdds : Prop :=
  ∀ (s : State) (p : List Byte), s.ready →
    (p.length ≠ 5 → exec (.mapCause p) s = .next (s.respond 0x23#8 (.refuse .badLength)))
    ∧ (p.length = 5 → causeMapSound s.causeMap →
        (∀ (kind : CodeKind) (cls : CauseClass), (u8 p 0 ≤ 95 ∨ u8 p 0 = 255) → u8 p 1 = kind.code → (kind = .operator → u8 p 2 ≠ 0) →
          1 ≤ u8 p 3 → u8 p 3 ≤ 239 → u8 p 4 = cls.code → cls ≠ .overrun → cls ≠ .planned →
          ((∀ q ∈ s.causeMap, ¬(q.station = u8 p 0 ∧ q.kind = kind ∧ q.code = u8 p 2)) → s.causeMap.length = 512 →
            exec (.mapCause p) s = .next (s.respond 0x23#8 (.refuse .full)))
          ∧ ((∃ q ∈ s.causeMap, q.station = u8 p 0 ∧ q.kind = kind ∧ q.code = u8 p 2) ∨ s.causeMap.length < 512 →
            ∃ m, exec (.mapCause p) s = .next ({ s with causeMap := m }.respond 0x23#8 .ok) ∧ causeMapSound m
              ∧ ∀ q, q ∈ m ↔ q = { station := u8 p 0, kind := kind, code := u8 p 2, cause := u8 p 3, cls := cls }
                  ∨ (q ∈ s.causeMap ∧ ¬(q.station = u8 p 0 ∧ q.kind = kind ∧ q.code = u8 p 2))))
        ∧ ((95 < u8 p 0 ∧ u8 p 0 ≠ 255) ∨ 1 < u8 p 1 ∨ (u8 p 1 = 1 ∧ u8 p 2 = 0) ∨ u8 p 3 < 1 ∨ 239 < u8 p 3
            ∨ u8 p 4 = 6 ∨ u8 p 4 = 7 ∨ 8 < u8 p 4 → exec (.mapCause p) s = .next (s.respond 0x23#8 .badValue)))

/-- R48 and R49: UNMAP_CAUSE and READ_MAP. That the number of entries held has two bytes is log 9. -/
def Obligations.UnmapCauseAndReadMap : Prop :=
  (∀ (s : State) (p : List Byte), s.ready → p.length = 3 → causeMapSound s.causeMap →
    (∀ kind : CodeKind, (u8 p 0 ≤ 95 ∨ u8 p 0 = 255) → u8 p 1 = kind.code → (kind = .operator → u8 p 2 ≠ 0) →
      ((∀ q ∈ s.causeMap, ¬(q.station = u8 p 0 ∧ q.kind = kind ∧ q.code = u8 p 2)) →
        exec (.unmapCause p) s = .next (s.respond 0x24#8 (.refuse .notFound)))
      ∧ ((∃ q ∈ s.causeMap, q.station = u8 p 0 ∧ q.kind = kind ∧ q.code = u8 p 2) →
        exec (.unmapCause p) s = .next ({ s with
          causeMap := s.causeMap.filter (fun q => !(q.station == u8 p 0 && q.kind == kind && q.code == u8 p 2)) }.respond 0x24#8 .ok)))
    ∧ ((95 < u8 p 0 ∧ u8 p 0 ≠ 255) ∨ 1 < u8 p 1 ∨ (u8 p 1 = 1 ∧ u8 p 2 = 0) →
        exec (.unmapCause p) s = .next (s.respond 0x24#8 .badValue)))
  ∧ (∀ (s : State) (p : List Byte), s.ready → p.length = 2 →
    (511 < u16 p 0 → exec (.readMap p) s = .next (s.respond 0x25#8 .badValue))
    ∧ (u16 p 0 ≤ 511 → exec (.readMap p) s = .next (s.respond 0x25#8 (.ok
        (enc2 s.causeMap.length ++ enc2 (u16 p 0) ++ enc1 ((s.causeMap.drop (u16 p 0)).take 32).length
          ++ ((s.causeMap.drop (u16 p 0)).take 32).flatMap fun e =>
              enc1 e.station ++ enc1 e.kind.code ++ enc1 e.code ++ enc1 e.cause ++ enc1 e.cls.code))))
    ∧ (u16 p 0 ≤ 511 → s.causeMap.length ≤ u16 p 0 →
        exec (.readMap p) s = .next (s.respond 0x25#8 (.ok (enc2 s.causeMap.length ++ enc2 (u16 p 0) ++ [0#8])))))

/-- R46: the station's own entry, else the ANY entry (key 255), else built-in 255; the root station is the station in every case. -/
def Obligations.LookupPrefersTheStationsOwnEntry : Prop :=
  ∀ (m : List CauseEntry) (r : Station), causeMapSound m → r.linkState = .reporting → r.number ≤ 95 →
    (∀ (kind : CodeKind) (code : Nat),
      (r.reported = some .fault ∧ kind = .fault ∧ code = r.faultCode)
        ∨ (r.reported = some .operatorStop ∧ kind = .operator ∧ code = r.reasonCode ∧ r.reasonCode ≠ 0) →
      (∀ e ∈ m, e.station = r.number → e.kind = kind → e.code = code →
        readStop m r = { station := r.number, cause := e.cause, cls := e.cls })
      ∧ ((∀ e ∈ m, ¬(e.station = r.number ∧ e.kind = kind ∧ e.code = code)) →
        (∀ e ∈ m, e.station = 255 → e.kind = kind → e.code = code →
          readStop m r = { station := r.number, cause := e.cause, cls := e.cls })
        ∧ ((∀ e ∈ m, ¬(e.station = 255 ∧ e.kind = kind ∧ e.code = code)) →
          readStop m r = { station := r.number, cause := 255, cls := .unassigned })))
    ∧ (r.reported = some .operatorStop → r.reasonCode = 0 → readStop m r = { station := r.number, cause := 249, cls := .operator })

/-- R38 to R43: from a STARVED constraint the walk steps upstream past STARVED and bypassed stations, from a BLOCKED one downstream past BLOCKED
and bypassed stations, and stops at the first other; with none left, the last station read has built-in 251 or 252. Any other constraint is itself
the stop. What is read where a walk stops: 253, 250, 247, 254 or 246 by the station's link and reported state; a FAULT and an OPERATOR_STOP are looked
up. A line's walk starts from its constraint, over its stations by position. -/
def Obligations.WalkStopsAtTheFirstStationThatDiffers : Prop :=
  (∀ (m : List CauseEntry) (c : Station) (up down : List Station),
    (∀ r ∈ up, r.position < c.position) → (∀ r ∈ down, c.position < r.position) →
    (c.linkState = .reporting → c.reported = some .starved →
      (∀ far r near, up = far ++ r :: near →
        (∀ q ∈ near, q.bypassed = true ∨ (q.linkState = .reporting ∧ q.reported = some .starved)) →
        r.bypassed = false → ¬(r.linkState = .reporting ∧ r.reported = some .starved) → walkFrom m (up ++ c :: down) c = readStop m r)
      ∧ ((∀ q ∈ up, q.bypassed = true ∨ (q.linkState = .reporting ∧ q.reported = some .starved)) →
        walkFrom m (up ++ c :: down) c =
          { station := ((up.filter fun q => !q.bypassed).headD c).number, cause := 251, cls := .material }))
    ∧ (c.linkState = .reporting → c.reported = some .blocked →
      (∀ near r far, down = near ++ r :: far →
        (∀ q ∈ near, q.bypassed = true ∨ (q.linkState = .reporting ∧ q.reported = some .blocked)) →
        r.bypassed = false → ¬(r.linkState = .reporting ∧ r.reported = some .blocked) → walkFrom m (up ++ c :: down) c = readStop m r)
      ∧ ((∀ q ∈ down, q.bypassed = true ∨ (q.linkState = .reporting ∧ q.reported = some .blocked)) →
        walkFrom m (up ++ c :: down) c =
          { station := ((down.filter fun q => !q.bypassed).getLastD c).number, cause := 252, cls := .logistics }))
    ∧ (¬(c.linkState = .reporting ∧ (c.reported = some .starved ∨ c.reported = some .blocked)) →
      walkFrom m (up ++ c :: down) c = readStop m c))
  ∧ (∀ (m : List CauseEntry) (r : Station),
    (r.linkState ≠ .reporting → readStop m r = { station := r.number, cause := 253, cls := .unassigned })
    ∧ (r.linkState = .reporting →
      (r.reported = some .run → readStop m r = { station := r.number, cause := 250, cls := .equipment })
      ∧ (r.reported = some .off → readStop m r = { station := r.number, cause := 247, cls := .operator })
      ∧ (r.reported = some .changeover → readStop m r = { station := r.number, cause := 254, cls := .operator })
      ∧ (r.reported = some .starved ∨ r.reported = some .blocked →
          readStop m r = { station := r.number, cause := 246, cls := .equipment })
      ∧ (r.reported = some .fault → readStop m r = lookupCause m r.number .fault r.faultCode)
      ∧ (r.reported = some .operatorStop → r.reasonCode ≠ 0 → readStop m r = lookupCause m r.number .operator r.reasonCode)))
  ∧ ∀ (s : State) (l : Fin 8),
    (∀ c, s.constraint? l = some c → s.walk l = walkFrom s.causeMap (lineStations s.stations l) c)
    ∧ (s.enrollmentSound → (lineStations s.stations l).Pairwise (fun a b => a.position < b.position)
      ∧ ∀ r, r ∈ lineStations s.stations l ↔ r ∈ s.stations ∧ r.line = l)

/-- The Cause Map stays within 512 entries in strict key order, each in range: every step keeps it. -/
def Obligations.CauseMapStaysSound : Prop := ∀ s t : State, causeMapSound s.causeMap → step s = .next t → causeMapSound t.causeMap

/-! ## Lines and stations (chapter 1) -/

/-- DEFINE_LINE, in both forms: in MONITORING WRONG_STATE; a field out of range or a failed cross-field condition names its field; else the
line is defined as the request says, with its product current, SCHEDULED and not rehearsing. -/
def Obligations.DefineLineDefinesTheLine : Prop :=
  ∀ (s : State) (p : List Byte), s.ready → p.length = 3 ∨ p.length = 19 →
    (s.partState = .monitoring → exec (.defineLine p) s = .next (s.respond 0x01#8 (.refuse .wrongState)))
    ∧ (s.partState = .configuring → 7 < u8 p 0 → exec (.defineLine p) s = .next (s.respond 0x01#8 (.badValue 1)))
    ∧ (s.partState = .configuring → ∀ l : Fin 8, u8 p 0 = l.val →
        (p.length = 3 → exec (.defineLine p) s = .next ((s.setLine l (some
          { defn := { initialProduct := u16 p 1, promotion := 3000, longStop := 90000, confirmation := 1000, windowSeconds := 15
                      declarePct := 90, clearPct := 95, declareWindows := 3, clearWindows := 2, nominalRate := 0 }
            rehearsal := false, mode := .scheduled, currentProduct := u16 p 1, live := none })).respond 0x01#8 .ok))
        ∧ (p.length = 19 → exec (.defineLine p) s = .next (
            if u16 p 3 < 5 ∨ 600 < u16 p 3 then s.respond 0x01#8 (.badValue 3)
            else if u32 p 5 ≠ 0 ∧ (u32 p 5 < 60 ∨ 86400 < u32 p 5) then s.respond 0x01#8 (.badValue 4)
            else if 120 < u8 p 9 then s.respond 0x01#8 (.badValue 5)
            else if u8 p 10 < 5 ∨ 120 < u8 p 10 then s.respond 0x01#8 (.badValue 6)
            else if u8 p 11 < 50 ∨ 99 < u8 p 11 then s.respond 0x01#8 (.badValue 7)
            else if u8 p 12 < 51 ∨ 100 < u8 p 12 then s.respond 0x01#8 (.badValue 8)
            else if u8 p 13 < 1 ∨ 16 < u8 p 13 then s.respond 0x01#8 (.badValue 9)
            else if u8 p 14 < 1 ∨ 16 < u8 p 14 then s.respond 0x01#8 (.badValue 10)
            else if 120000 < u32 p 15 then s.respond 0x01#8 (.badValue 11)
            else if u32 p 5 ≠ 0 ∧ u32 p 5 ≤ u16 p 3 then s.respond 0x01#8 (.badValue 4)
            else if u8 p 12 ≤ u8 p 11 then s.respond 0x01#8 (.badValue 8)
            else (s.setLine l (some
              { defn := { initialProduct := u16 p 1, promotion := 100 * u16 p 3, longStop := 100 * u32 p 5
                          confirmation := 100 * u8 p 9, windowSeconds := u8 p 10, declarePct := u8 p 11, clearPct := u8 p 12
                          declareWindows := u8 p 13, clearWindows := u8 p 14, nominalRate := u32 p 15 }
                rehearsal := false, mode := .scheduled, currentProduct := u16 p 1, live := none })).respond 0x01#8 .ok)))

/-- UNDEFINE_LINE and REMOVE_STATION: what each removes, and what it refuses. -/
def Obligations.UndefineAndRemove : Prop :=
  ∀ (s : State) (p : List Byte), s.ready → p.length = 1 →
    (s.partState = .monitoring → exec (.undefineLine p) s = .next (s.respond 0x02#8 (.refuse .wrongState))
      ∧ exec (.removeStation p) s = .next (s.respond 0x04#8 (.refuse .wrongState)))
    ∧ (s.partState = .configuring →
        (7 < u8 p 0 → exec (.undefineLine p) s = .next (s.respond 0x02#8 .badValue))
        ∧ (∀ l : Fin 8, u8 p 0 = l.val →
            (s.line? l = none → exec (.undefineLine p) s = .next (s.respond 0x02#8 (.refuse .notFound)))
            ∧ ((s.line? l).isSome → (∃ r ∈ s.stations, r.line = l) →
                exec (.undefineLine p) s = .next (s.respond 0x02#8 (.refuse .notEmpty)))
            ∧ ((s.line? l).isSome → (∀ r ∈ s.stations, r.line ≠ l) →
                exec (.undefineLine p) s = .next ((s.setLine l none).respond 0x02#8 .ok)))
        ∧ (95 < u8 p 0 → exec (.removeStation p) s = .next (s.respond 0x04#8 .badValue))
        ∧ (u8 p 0 ≤ 95 → (∀ r ∈ s.stations, r.number ≠ u8 p 0) →
            exec (.removeStation p) s = .next (s.respond 0x04#8 (.refuse .notFound)))
        ∧ (s.enrollmentSound → ∀ r ∈ s.stations, r.number = u8 p 0 →
            exec (.removeStation p) s =
              .next ({ s with stations := s.stations.filter (fun q => q.number != u8 p 0) }.respond 0x04#8 .ok)
            ∧ enrolledOn s.stations r.link = enrolledOn (s.stations.filter fun q => q.number != u8 p 0) r.link + 1
            ∧ (∀ q ∈ s.stations.filter (fun q => q.number != u8 p 0),
                q.number ≠ r.number ∧ ¬(q.link = r.link ∧ q.address = r.address) ∧ ¬(q.line = r.line ∧ q.position = r.position))))

/-- ENROLL_STATION: its checks in the order of R3, then a new record in its place by station number, with the values of R8. -/
def Obligations.EnrollStationCreatesARecord : Prop :=
  ∀ (s : State) (p : List Byte), s.ready → p.length = 10 →
    (s.partState = .monitoring → exec (.enrollStation p) s = .next (s.respond 0x03#8 (.refuse .wrongState)))
    ∧ (s.partState = .configuring →
        (95 < u8 p 0 ∨ 3 < u8 p 1 ∨ u8 p 2 < 1 ∨ 31 < u8 p 2 ∨ 7 < u8 p 3 ∨ u8 p 4 < 1 ∨ 16 < u8 p 4 ∨ 3 < u8 p 5
            ∨ u32 p 6 < 1 ∨ 120000 < u32 p 6 → exec (.enrollStation p) s = .next (s.respond 0x03#8 .badValue))
        ∧ ∀ (k : Fin 4) (l : Fin 8), u8 p 0 ≤ 95 → u8 p 1 = k.val → 1 ≤ u8 p 2 → u8 p 2 ≤ 31 → u8 p 3 = l.val → 1 ≤ u8 p 4 →
            u8 p 4 ≤ 16 → u8 p 5 ≤ 3 → 1 ≤ u32 p 6 → u32 p 6 ≤ 120000 →
            (s.line? l = none → exec (.enrollStation p) s = .next (s.respond 0x03#8 (.refuse .notFound)))
            ∧ ((s.line? l).isSome →
              ((∃ r ∈ s.stations, r.number = u8 p 0) →
                exec (.enrollStation p) s = .next (s.respond 0x03#8 { result := .duplicate, payload := [1#8] }))
              ∧ ((∀ r ∈ s.stations, r.number ≠ u8 p 0) →
                ((∃ r ∈ s.stations, r.link = k ∧ r.address = u8 p 2) →
                  exec (.enrollStation p) s = .next (s.respond 0x03#8 { result := .duplicate, payload := [2#8] }))
                ∧ ((∀ r ∈ s.stations, ¬(r.link = k ∧ r.address = u8 p 2)) →
                  ((∃ r ∈ s.stations, r.line = l ∧ r.position = u8 p 4) →
                    exec (.enrollStation p) s = .next (s.respond 0x03#8 { result := .duplicate, payload := [3#8] }))
                  ∧ ((∀ r ∈ s.stations, ¬(r.line = l ∧ r.position = u8 p 4)) →
                    (24 ≤ enrolledOn s.stations k → exec (.enrollStation p) s = .next (s.respond 0x03#8 (.refuse .full)))
                    ∧ (enrolledOn s.stations k < 24 → exec (.enrollStation p) s = .next ({ s with
                        stations := insertStation (
                          { number := u8 p 0, link := k, address := u8 p 2, line := l, position := u8 p 4
                            constraint := (u8 p 5).testBit 0, finish := (u8 p 5).testBit 1, maxRate := u32 p 6, bypassed := false
                            linkState := .unknown, missRun := 0, goodRun := 0, reported := none, faultCode := 0, reasonCode := 0
                            changeInstant := none, lastApplied := none, baselines := none, gap := none, accrualStart := none } : Station)
                          s.stations }.respond 0x03#8 .ok)))))))

/-- BYPASS_STATION: its refusals, the request that changes nothing, and the change, after which a live SCHEDULED line that is CANDIDATE or
STOPPED walks again, and a line in any other condition does nothing (R6, R29, R38, R43; `State.walked`, log 7). The links, the triggers and the Plant
Clock stay in every case, and the Journal and the Attention Unit unless a STOPPED line's stoppage is re-attributed. -/
def Obligations.BypassStationSetsTheFlag : Prop :=
  ∀ (s : State) (p : List Byte), s.ready → p.length = 2 →
    (95 < u8 p 0 ∨ 1 < u8 p 1 → exec (.bypassStation p) s = .next (s.respond 0x20#8 .badValue))
    ∧ (u8 p 0 ≤ 95 → u8 p 1 ≤ 1 →
        (s.station? (u8 p 0) = none → exec (.bypassStation p) s = .next (s.respond 0x20#8 (.refuse .notFound)))
        ∧ ∀ r, s.station? (u8 p 0) = some r →
          (u8 p 1 = 1 → r.constraint = true → exec (.bypassStation p) s = .next (s.respond 0x20#8 .badValue))
          ∧ (¬(u8 p 1 = 1 ∧ r.constraint = true) →
            (r.bypassed = (u8 p 1 == 1) → exec (.bypassStation p) s = .next (s.respond 0x20#8 .ok))
            ∧ (r.bypassed ≠ (u8 p 1 == 1) → ∃ t, exec (.bypassStation p) s = .next (t.respond 0x20#8 .ok)
                ∧ t.station? (u8 p 0) = some { r with bypassed := u8 p 1 == 1 }
                ∧ (∀ n, n ≠ u8 p 0 → t.station? n = s.station? n)
                ∧ (s.updStation (u8 p 0) fun q => { q with bypassed := u8 p 1 == 1 }).SameBeside t (· = r.line)
                ∧ (∀ u, u = (s.updStation (u8 p 0) fun q => { q with bypassed := u8 p 1 == 1 }) →
                  (s.line? r.line = none → t = u)
                  ∧ (∀ ln, s.line? r.line = some ln → ln.live = none ∨ ln.mode ≠ .scheduled → t = u)
                  ∧ (∀ ln lv, s.onLine r.line ln lv → ln.mode = .scheduled →
                    u.walked t r.line ln lv
                    ∧ (lv.condition = .unobserved ∨ lv.condition = .producing ∨ (∃ st a b, lv.condition = .restarting st a b) → t = u)))
                ∧ t.links = s.links ∧ t.triggers = s.triggers ∧ t.plant = s.plant
                ∧ ((∀ lv st, s.live? r.line = some lv → lv.condition ≠ .stopped st) →
                  t.journal = s.journal ∧ t.attention = s.attention))))

/-- No two stations share an identity, no link has more than 24, every station's line is defined, and in MONITORING every defined line has one
CONSTRAINT and one FINISH station; a defined line is live exactly in MONITORING, and in CONFIGURING every link is IDLE: every step keeps these. -/
def Obligations.EnrollmentAndPartStateStaySound : Prop :=
  ∀ s t : State, step s = .next t → (s.enrollmentSound → t.enrollmentSound) ∧ (s.partSound → t.partSound)

/-! ## Line modes (chapter 3) -/

/-- DECLARE_LINE_MODE: the checks of R53 in their order, and R62: a declaration of the mode held, for SCHEDULED or NOT_SCHEDULED, has no effect,
while one of PLANNED or CHANGEOVER under either of them is always a redeclaration, whose segment starts now. -/
def Obligations.DeclarationOfTheHeldModeHasNoEffect : Prop :=
  ∀ (s : State) (p : List Byte), s.ready → p.length = 9 →
    (s.partState = .configuring → exec (.declareLineMode p) s = .next (s.respond 0x10#8 (.refuse .wrongState)))
    ∧ (s.partState = .monitoring → 7 < u8 p 0 → exec (.declareLineMode p) s = .next (s.respond 0x10#8 .badValue))
    ∧ (s.partState = .monitoring → ∀ l : Fin 8, u8 p 0 = l.val →
        (s.line? l = none → exec (.declareLineMode p) s = .next (s.respond 0x10#8 (.refuse .notFound)))
        ∧ ((s.line? l).isSome →
            3 < u8 p 1 ∨ ((u8 p 1 = 2 ∨ u8 p 1 = 3) ∧ (u8 p 2 < 1 ∨ 239 < u8 p 2 ∨ 86400 < u32 p 5)) →
            exec (.declareLineMode p) s = .next (s.respond 0x10#8 .badValue))
        ∧ (∀ ln, s.line? l = some ln → (ln.mode = .scheduled ∧ u8 p 1 = 0) ∨ (ln.mode = .notScheduled ∧ u8 p 1 = 1) →
            exec (.declareLineMode p) s = .next (s.respond 0x10#8 .ok))
        ∧ (∀ ln lv, s.onLine l ln lv →
            ((∃ c a, ln.mode = .planned c a) ∨ ∃ c x a, ln.mode = .changeover c x a) → u8 p 1 = 2 ∨ u8 p 1 = 3 →
            1 ≤ u8 p 2 → u8 p 2 ≤ 239 → u32 p 5 ≤ 86400 →
            ∃ (t : State) (lv' : Live), exec (.declareLineMode p) s = .next (t.respond 0x10#8 .ok) ∧ t.live? l = some lv'
              ∧ lv'.condition = (if u8 p 1 = 2 then .planned (u8 p 2) s.runClock else .changeover (u8 p 2) s.runClock)))

/-- A declaration of NOT_SCHEDULED, PLANNED or CHANGEOVER that has an effect: what the line holds is charged up to now and discarded, a
stoppage after its STOP_CLOSED, and the declared mode starts now with its allowance (R54–R58). Slow keeps its value, unless the nominal rate is 0
(log 27). Nothing outside the line changes. -/
def Obligations.DeclarationEntersTheMode : Prop :=
  ∀ (s : State) (p : List Byte) (l : Fin 8) (ln : Line) (lv : Live) (m : Mode), s.ready → p.length = 9 → s.partState = .monitoring →
    u8 p 0 = l.val → s.onLine l ln lv → modeOf (u8 p 1) (u8 p 2) (u16 p 3) (u32 p 5) = some m → m ≠ .scheduled →
    ¬(ln.mode = .notScheduled ∧ m = .notScheduled) →
    ∃ (t : State) (lv' : Live), exec (.declareLineMode p) s = .next (t.respond 0x10#8 .ok)
      ∧ t.line? l = some { ln with mode := m, live := some lv' } ∧ lv'.lastChange = s.runClock
      ∧ (match m with
        | .planned cause a => lv'.condition = .planned cause s.runClock
            ∧ lv'.allowanceExpiry = (if a = 0 then none else some (s.runClock + ticks a))
        | .changeover cause _ a => lv'.condition = .changeover cause s.runClock
            ∧ lv'.allowanceExpiry = (if a = 0 then none else some (s.runClock + ticks a))
        | .notScheduled => lv'.condition = .notScheduled ∧ lv'.allowanceExpiry = none
        | .scheduled => False)
      ∧ (ln.mode ≠ .scheduled → lv'.period = lv.period.chargeTo lv.condition lv.lastChange s.runClock
          ∧ t.journal = s.journal ∧ t.attention = s.attention)
      ∧ (ln.mode = .scheduled →
          (lv.condition = .unobserved → lv'.period = lv.period.chargeStretch .unobserved (s.runClock - lv.lastChange)
            ∧ t.journal = s.journal ∧ t.attention = s.attention)
          ∧ (lv.condition = .producing → lv'.rate.window = none ∧ lv'.rate.lowRun = 0 ∧ lv'.rate.highRun = 0
            ∧ (ln.defn.nominalRate ≠ 0 → lv'.rate.slow = lv.rate.slow) ∧ (ln.defn.nominalRate = 0 → lv'.rate.slow = false)
            ∧ t.journal = s.journal ∧ t.attention = s.attention
            ∧ lv'.period = (lv.period.chargeStretch .producing (s.runClock - lv.lastChange)).chargeSlowTo
                lv.rate.slowStart s.runClock)
          ∧ (∀ c, lv.condition = .candidate c → lv'.period = lv.period.chargeMicroStop c.root (s.runClock - c.chargeStart)
            ∧ t.journal = s.journal ∧ t.attention = s.attention)
          ∧ (∀ st, lv.condition.stoppage? = some st →
            lv'.period = lv.period.chargeSegment st.root (s.runClock - st.segmentStart)
            ∧ ∀ u, u = s.notify (some l) (.stopClosed st.number s.runClock
                (if st.capped then 2147483647#32 else s.runClock - st.start) .modeDeclared st.segments) →
              t.journal = u.journal ∧ t.attention = u.attention))
      ∧ s.SameBeside t (· = l) ∧ t.store[l] = s.store[l] ∧ t.stations = s.stations ∧ t.links = s.links
      ∧ t.triggers = s.triggers ∧ t.plant = s.plant ∧ t.host = s.host

/-- A declaration of SCHEDULED under NOT_SCHEDULED, PLANNED or CHANGEOVER: the declared time is charged up to now, a changeover's target
becomes current with a run of its own, or with a PRODUCT_LIMIT close before a fifth run, and the constraint decides the condition (R61, R67,
R68). Slow keeps its value, and at an entry to PRODUCING slow time accrues from now (R81, R85), unless the nominal rate is 0 (log 27). -/
def Obligations.ReturnToScheduledFollowsTheConstraint : Prop :=
  ∀ (s : State) (p : List Byte) (l : Fin 8) (ln : Line) (lv : Live), s.ready → p.length = 9 → s.partState = .monitoring →
    u8 p 0 = l.val → u8 p 1 = 0 → s.onLine l ln lv → ln.mode ≠ .scheduled →
    ∃ (t : State) (lv' : Live), exec (.declareLineMode p) s = .next (t.respond 0x10#8 .ok)
      ∧ t.line? l = some { ln with
          mode := .scheduled, live := some lv'
          currentProduct := match ln.mode with
            | .changeover _ target _ => target
            | .scheduled | .notScheduled | .planned _ _ => ln.currentProduct }
      ∧ lv'.lastChange = s.runClock ∧ lv'.allowanceExpiry = none
      ∧ (∀ c, s.constraint? l = some c →
          (c.linkState = .reporting → c.reported = some .run → lv'.condition = .producing
            ∧ lv'.rate.window = ln.defn.startWindow s.runClock ∧ lv'.rate.slow = (lv.rate.slow && ln.defn.nominalRate != 0)
            ∧ lv'.rate.slowStart = if lv.rate.slow && ln.defn.nominalRate != 0 then some s.runClock else none)
          ∧ (c.linkState = .reporting → c.reported ≠ some .run → lv'.condition = .candidate
              { start := s.runClock, chargeStart := s.runClock, carriedIn := false
                root := walkFrom s.causeMap (lineStations s.stations l) c, promotion := s.runClock + ticks ln.defn.promotion }
            ∧ lv'.rate.slow = lv.rate.slow)
          ∧ (c.linkState ≠ .reporting → lv'.condition = .unobserved ∧ lv'.rate.slow = lv.rate.slow))
      ∧ ((∀ c x a, ln.mode ≠ .changeover c x a) →
          lv'.period = lv.period.chargeTo lv.condition lv.lastChange s.runClock ∧ t.store = s.store
          ∧ t.journal = s.journal ∧ t.attention = s.attention)
      ∧ (∀ c target a, ln.mode = .changeover c target a →
          (lv.period.runs.length < 4 → t.store = s.store ∧ t.journal = s.journal ∧ t.attention = s.attention
            ∧ lv'.period = { lv.period.chargeTo lv.condition lv.lastChange s.runClock with
                runs := (lv.period.chargeTo lv.condition lv.lastChange s.runClock).runs
                  ++ [{ product := target, start := s.runClock, constraintGood := 0, finishedGood := 0 }] })
          ∧ (4 ≤ lv.period.runs.length →
              lv'.period.runs = [{ product := target, start := s.runClock, constraintGood := 0, finishedGood := 0 }]
              ∧ lv'.period.start = s.runClock
              ∧ ∃ r, t.store[l].getLast? = some r ∧ r.reason = .productLimit ∧ r.closeTick = s.runClock
                ∧ r.period.number = lv.period.number ∧ r.period.runs = lv.period.runs
                ∧ (s.store[l].length < 3 → r.displaced = none)
                ∧ (∀ oldest rest, s.store[l] = oldest :: rest → 2 ≤ rest.length → r.displaced = some oldest.period.number)
                ∧ ∀ u, u = (s.notify (some l) (.periodClosed lv.period.number .productLimit r.displaced)).latch .period →
                  t.journal = u.journal ∧ t.attention = u.attention))
      ∧ s.SameBeside t (· = l)

/-! ## Rates (chapter 4) -/

/-- SET_RATE: its checks, then the three values of the definition; a window that runs keeps its values, a PRODUCING line without one starts one,
and a line whose rate is 0 and that runs none is no longer SLOW (R88). The field number of a line above 7 is
log 17. -/
def Obligations.SetRateChangesTheDefinition : Prop :=
  ∀ (s : State) (p : List Byte), s.ready → p.length = 7 →
    (s.partState = .configuring → exec (.setRate p) s = .next (s.respond 0x11#8 (.refuse .wrongState)))
    ∧ (s.partState = .monitoring → 7 < u8 p 0 → exec (.setRate p) s = .next (s.respond 0x11#8 (.badValue 1)))
    ∧ (s.partState = .monitoring → ∀ l : Fin 8, u8 p 0 = l.val →
        (s.line? l = none → exec (.setRate p) s = .next (s.respond 0x11#8 (.refuse .notFound)))
        ∧ ((s.line? l).isSome →
            (120000 < u32 p 1 → exec (.setRate p) s = .next (s.respond 0x11#8 (.badValue 11)))
            ∧ (u32 p 1 ≤ 120000 → u8 p 5 < 50 ∨ 99 < u8 p 5 → exec (.setRate p) s = .next (s.respond 0x11#8 (.badValue 7)))
            ∧ (u32 p 1 ≤ 120000 → 50 ≤ u8 p 5 → u8 p 5 ≤ 99 → 100 < u8 p 6 ∨ u8 p 6 ≤ u8 p 5 →
                exec (.setRate p) s = .next (s.respond 0x11#8 (.badValue 8))))
        ∧ (u32 p 1 ≤ 120000 → 50 ≤ u8 p 5 → u8 p 5 ≤ 99 → u8 p 5 < u8 p 6 → u8 p 6 ≤ 100 → ∀ ln lv, s.onLine l ln lv →
            ∃ lv', exec (.setRate p) s = .next ((s.setLine l (some { ln with
                defn := { ln.defn with nominalRate := u32 p 1, declarePct := u8 p 5, clearPct := u8 p 6 }
                live := some lv' })).respond 0x11#8 .ok)
              ∧ (lv.rate.window.isSome → lv' = lv)
              ∧ (lv.rate.window = none → 0 < u32 p 1 → lv.condition ≠ .producing → lv' = lv)
              ∧ (lv.rate.window = none → 0 < u32 p 1 → lv.condition = .producing → lv' = { lv with rate := { lv.rate with
                  window := some { start := s.runClock, expiry := s.runClock + ticks (100 * ln.defn.windowSeconds)
                                   expected := u32 p 1 * ln.defn.windowSeconds / 60, declarePct := u8 p 5, clearPct := u8 p 6
                                   actual := 0 } } })
              ∧ (lv.rate.window = none → u32 p 1 = 0 → lv' = { lv with
                  rate := { lv.rate with slow := false, lowRun := 0, highRun := 0, slowStart := none }
                  period := lv.period.chargeSlowTo lv.rate.slowStart s.runClock })))

/-- WINDOW_EXPIRY of a running window that has ended (R82, R83, R88): the runs, the shortfall and the window count, the last window values, SLOW
declared or cleared, and the next window, or none and no SLOW when the nominal rate is 0, after any notice of
the window's own. Nothing outside the line changes. Before its instant the event does nothing (log 2). -/
def Obligations.WindowExpiryJudgesTheWindow : Prop :=
  ∀ (s : State) (l : Fin 8) (ln : Line) (lv : Live) (w : Window), s.onLine l ln lv → lv.rate.window = some w →
    (reached w.expiry s.runClock = false → exec (.windowExpiry l) s = .next s)
    ∧ (reached w.expiry s.runClock = true → ∃ t lv', exec (.windowExpiry l) s = .next t
      ∧ t.line? l = some { ln with live := some lv' } ∧ lv'.condition = lv.condition ∧ lv'.lastChange = lv.lastChange
      ∧ lv'.period.shortfall = satAdd lv.period.shortfall (w.expected - w.actual)
      ∧ lv'.period.completedWindows = satAdd lv.period.completedWindows 1
      ∧ lv'.period.classes = lv.period.classes ∧ lv'.period.buckets = lv.period.buckets
      ∧ lv'.rate.last = some (w.actual, w.expected)
      ∧ (0 < ln.defn.nominalRate →
          lv'.rate.lowRun = (if w.actual * 100 < w.expected * w.declarePct then min (lv.rate.lowRun + 1) 16 else 0)
          ∧ lv'.rate.highRun = (if w.expected * w.clearPct ≤ w.actual * 100 then min (lv.rate.highRun + 1) 16 else 0)
          ∧ lv'.rate.slow = (if lv.rate.slow then !decide (ln.defn.clearWindows ≤ lv'.rate.highRun)
              else decide (ln.defn.declareWindows ≤ lv'.rate.lowRun))
          ∧ (lv.rate.slow = false → lv'.rate.slow = true → lv'.rate.slowStart = some s.runClock
              ∧ lv'.period.slowTicks = lv.period.slowTicks
              ∧ t.journal = (s.notify (some l) (.slowDeclared w.actual w.expected)).journal
              ∧ t.attention = (s.notify (some l) (.slowDeclared w.actual w.expected)).attention)
          ∧ (lv.rate.slow = true → lv'.rate.slow = false → lv'.rate.slowStart = none
              ∧ lv'.period.slowTicks = lv.period.slowTicks + ((lv.rate.slowStart.map (s.runClock - ·)).getD 0#32)
              ∧ t.journal = (s.notify (some l) (.slowCleared w.actual w.expected)).journal
              ∧ t.attention = (s.notify (some l) (.slowCleared w.actual w.expected)).attention)
          ∧ (lv.rate.slow = lv'.rate.slow → t.journal = s.journal ∧ t.attention = s.attention ∧ lv'.rate.slowStart = lv.rate.slowStart
              ∧ lv'.period.slowTicks = lv.period.slowTicks)
          ∧ lv'.rate.window = some
              { start := s.runClock, expiry := s.runClock + ticks (100 * ln.defn.windowSeconds)
                expected := ln.defn.nominalRate * ln.defn.windowSeconds / 60, declarePct := ln.defn.declarePct
                clearPct := ln.defn.clearPct, actual := 0 })
      ∧ (ln.defn.nominalRate = 0 → lv'.rate.window = none ∧ lv'.rate.slow = false ∧ lv'.rate.lowRun = 0 ∧ lv'.rate.highRun = 0
        ∧ lv'.rate.slowStart = none
        ∧ ∀ low high : Nat, low = (if w.actual * 100 < w.expected * w.declarePct then min (lv.rate.lowRun + 1) 16 else 0) →
          high = (if w.expected * w.clearPct ≤ w.actual * 100 then min (lv.rate.highRun + 1) 16 else 0) →
          (lv.rate.slow = false → ln.defn.declareWindows ≤ low →
            t.journal = (s.notify (some l) (.slowDeclared w.actual w.expected)).journal
            ∧ t.attention = (s.notify (some l) (.slowDeclared w.actual w.expected)).attention
            ∧ lv'.period.slowTicks = lv.period.slowTicks)
          ∧ (lv.rate.slow = false → low < ln.defn.declareWindows → t.journal = s.journal ∧ t.attention = s.attention
            ∧ (lv.rate.slowStart = none → lv'.period.slowTicks = lv.period.slowTicks))
          ∧ (lv.rate.slow = true →
            lv'.period.slowTicks = lv.period.slowTicks + ((lv.rate.slowStart.map (s.runClock - ·)).getD 0#32)
            ∧ (ln.defn.clearWindows ≤ high → t.journal = (s.notify (some l) (.slowCleared w.actual w.expected)).journal
              ∧ t.attention = (s.notify (some l) (.slowCleared w.actual w.expected)).attention)
            ∧ (high < ln.defn.clearWindows → t.journal = s.journal ∧ t.attention = s.attention)))
      ∧ s.SameBeside t (· = l) ∧ t.store = s.store ∧ t.stations = s.stations ∧ t.links = s.links ∧ t.triggers = s.triggers
      ∧ t.plant = s.plant ∧ t.host = s.host)

/-- The counters of an applied report (R70–R78), by the record `r` as it stood before the report, while the Station Table holds `q`, the record as
the report leaves it (R10, `State.tookGood`): baselines follow the report; without baselines nothing is
credited; a restart, a gap expiry taken, or an allowance of 65,536 or more, is one discontinuity of ALL; else each delta is credited or refused on its own,
a refusal being one discontinuity and one IMPLAUSIBLE notice, in the order infeed, outfeed, reject. GAP_EXPIRY marks the gap expiry as taken; before its
instant, or without one, it does nothing (log 2). -/
def Obligations.CountersAreCreditedOrRefused : Prop :=
  (∀ (s : State) (r q : Station) (previous : Option Tick) (v : Counters) (restart : Bool), s.station? r.number = some q →
    ((s.takeCounters r previous v restart).station? r.number
      = some { q with baselines := some v, gap := some { expiry := s.runClock + 393216000#32, taken := false } })
    ∧ (r.baselines = none → (s.takeCounters r previous v restart).lines = s.lines)
    ∧ (∀ b ln lv, r.baselines = some b → s.onLine r.line ln lv → (∃ e ∈ lv.period.stations, e.station = r.number) →
        ∃ lv', (s.takeCounters r previous v restart).line? r.line = some { ln with live := some lv' }
        ∧ lv'.condition = lv.condition ∧ lv'.period.classes = lv.period.classes
        ∧ (restart = true →
            (lv'.period.entry r.number) = { lv.period.entry r.number with
              discontinuities := satAdd (lv.period.entry r.number).discontinuities 1 }
            ∧ lv'.period.constraintGood = lv.period.constraintGood ∧ lv'.period.finishedGood = lv.period.finishedGood
            ∧ (s.takeCounters r previous v restart).journal
              = (s.notify (some r.line) (.countDiscontinuity r.number .all .stationRestart)).journal)
        ∧ (restart = false →
            r.gapTaken = true ∨ 65536 ≤ (r.maxRate * (s.runClock - previous.getD s.runClock).toNat + 5999) / 6000 + 8 →
            (lv'.period.entry r.number) = { lv.period.entry r.number with
              discontinuities := satAdd (lv.period.entry r.number).discontinuities 1 }
            ∧ lv'.period.constraintGood = lv.period.constraintGood ∧ lv'.period.finishedGood = lv.period.finishedGood
            ∧ (s.takeCounters r previous v restart).journal
              = (s.notify (some r.line) (.countDiscontinuity r.number .all .gapTooLong)).journal)
        ∧ (restart = false → r.gapTaken = false →
            (r.maxRate * (s.runClock - previous.getD s.runClock).toNat + 5999) / 6000 + 8 < 65536 →
            (lv'.period.entry r.number).infeed
              = (if (v.infeed - b.infeed).toNat ≤ plausibleUpTo r.maxRate (s.runClock - previous.getD s.runClock).toNat
                then satAdd (lv.period.entry r.number).infeed (v.infeed - b.infeed).toNat else (lv.period.entry r.number).infeed)
            ∧ (lv'.period.entry r.number).outfeed
              = (if (v.outfeed - b.outfeed).toNat ≤ plausibleUpTo r.maxRate (s.runClock - previous.getD s.runClock).toNat
                then satAdd (lv.period.entry r.number).outfeed (v.outfeed - b.outfeed).toNat else (lv.period.entry r.number).outfeed)
            ∧ (lv'.period.entry r.number).rejects
              = (if (v.reject - b.reject).toNat ≤ plausibleUpTo r.maxRate (s.runClock - previous.getD s.runClock).toNat
                then satAdd (lv.period.entry r.number).rejects (v.reject - b.reject).toNat else (lv.period.entry r.number).rejects)
            ∧ (r.constraint = true → (v.outfeed - b.outfeed).toNat ≤ plausibleUpTo r.maxRate
                (s.runClock - previous.getD s.runClock).toNat →
                lv'.period.constraintGood = satAdd lv.period.constraintGood (v.outfeed - b.outfeed).toNat
                ∧ lv'.rate.window = lv.rate.window.map fun w => { w with actual := w.actual + (v.outfeed - b.outfeed).toNat })
            ∧ (r.constraint = false → lv'.period.constraintGood = lv.period.constraintGood ∧ lv'.rate.window = lv.rate.window)
            ∧ (r.finish = true → (v.outfeed - b.outfeed).toNat ≤ plausibleUpTo r.maxRate
                (s.runClock - previous.getD s.runClock).toNat →
                lv'.period.finishedGood = satAdd lv.period.finishedGood (v.outfeed - b.outfeed).toNat)
            ∧ (r.finish = false → lv'.period.finishedGood = lv.period.finishedGood)
            ∧ (plausibleUpTo r.maxRate (s.runClock - previous.getD s.runClock).toNat < (v.outfeed - b.outfeed).toNat →
                lv'.period.constraintGood = lv.period.constraintGood ∧ lv'.period.finishedGood = lv.period.finishedGood
                ∧ lv'.rate.window = lv.rate.window)
            ∧ ∀ refused : List CounterName, refused =
                (if (v.infeed - b.infeed).toNat ≤ plausibleUpTo r.maxRate (s.runClock - previous.getD s.runClock).toNat then []
                  else [.infeed])
                ++ (if (v.outfeed - b.outfeed).toNat ≤ plausibleUpTo r.maxRate (s.runClock - previous.getD s.runClock).toNat then []
                  else [.outfeed])
                ++ (if (v.reject - b.reject).toNat ≤ plausibleUpTo r.maxRate (s.runClock - previous.getD s.runClock).toNat then []
                  else [.reject]) →
              (lv'.period.entry r.number).discontinuities
                = refused.foldl (fun n _ => satAdd n 1) (lv.period.entry r.number).discontinuities
              ∧ (s.takeCounters r previous v restart).journal
                = (refused.foldl (fun u c => u.notify (some r.line) (.countDiscontinuity r.number c .implausible)) s).journal)))
  ∧ ∀ (s : State) (n : Nat),
    (∀ r g, s.station? n = some r → r.gap = some g → reached g.expiry s.runClock = true →
      exec (.gapExpiry n) s = .next (s.updStation n fun q => { q with gap := some { g with taken := true } }))
    ∧ (∀ r g, s.station? n = some r → r.gap = some g → reached g.expiry s.runClock = false → exec (.gapExpiry n) s = .next s)
    ∧ ((∀ r, s.station? n = some r → r.gap = none) → exec (.gapExpiry n) s = .next s)

/-! ## Stops (chapter 2) -/

/-- PROMOTION_EXPIRY of a candidate whose time has come (R27, R34): the next stoppage number, the open stoppage, one stoppage counted in its
bucket and its period, STOP_OPENED, and STOP latched; nothing else. Before its time, or without a candidate, nothing (log 2). -/
def Obligations.PromotionOpensAStoppage : Prop :=
  ∀ (s : State) (l : Fin 8) (ln : Line) (lv : Live), s.onLine l ln lv →
    (∀ c, lv.condition = .candidate c → reached c.promotion s.runClock = true →
      exec (.promotionExpiry l) s = .next (((({ s with lastStoppage := s.lastStoppage.set l (s.lastStoppage[l] + 1#32) }).setLine l
          (some { ln with live := some { lv with
            condition := .stopped
              { number := s.lastStoppage[l] + 1#32, start := c.start
                startPlant := s.plantTime.bind fun t => t.less (s.runClock - c.start).toNat
                carriedIn := c.carriedIn, initial := c.root, root := c.root, segmentStart := c.chargeStart, segments := 1
                longStop := if ln.defn.longStop = 0 then none else some (c.start + ticks ln.defn.longStop)
                notified := false, cap := some (c.start + 2147483647#32), capped := false }
            period := lv.period.chargePromotion c.root } })).notify (some l)
          (.stopOpened (s.lastStoppage[l] + 1#32) c.start c.root c.carriedIn)).latch .stop)
      ∧ (lv.period.chargePromotion c.root).stoppagesOpened = satAdd lv.period.stoppagesOpened 1
      ∧ (lv.period.chargePromotion c.root).classes = lv.period.classes)
    ∧ (∀ c, lv.condition = .candidate c → reached c.promotion s.runClock = false → exec (.promotionExpiry l) s = .next s)
    ∧ ((∀ c, lv.condition ≠ .candidate c) → exec (.promotionExpiry l) s = .next s)

/-- CONFIRMATION_EXPIRY of a restart whose time has come (R30): the stoppage ended at the restart, or at the start of the open period if that is
later; its segment is charged to there, the rest is PRODUCING, STOP_CLOSED is queued and the line produces; nothing else. Slow is clear when the
nominal rate is 0 (R81, log 27). -/
def Obligations.ConfirmationClosesTheStoppage : Prop :=
  ∀ (s : State) (l : Fin 8) (ln : Line) (lv : Live), s.onLine l ln lv →
    (∀ st r e finish, lv.condition = .restarting st r e → reached e s.runClock = true →
      finish = (if (s.runClock - r).toNat ≤ (s.runClock - lv.period.start).toNat then r else lv.period.start) →
      exec (.confirmationExpiry l) s = .next ((s.setLine l (some { ln with live := some { lv with
          condition := .producing, lastChange := s.runClock
          rate := { lv.rate with slow := lv.rate.slow && ln.defn.nominalRate != 0, window := ln.defn.startWindow s.runClock
                                 slowStart := if lv.rate.slow && ln.defn.nominalRate != 0 then some s.runClock else none }
          period := (lv.period.chargeSegment st.root (finish - st.segmentStart)).chargeStretch .producing (s.runClock - finish) } })).notify
        (some l) (.stopClosed st.number finish (if st.capped then 2147483647#32 else finish - st.start) .restartConfirmed st.segments)))
    ∧ (∀ st r e, lv.condition = .restarting st r e → reached e s.runClock = false → exec (.confirmationExpiry l) s = .next s)
    ∧ ((∀ st r e, lv.condition ≠ .restarting st r e) → exec (.confirmationExpiry l) s = .next s)

/-- LONG_STOP_EXPIRY, DURATION_CAP_EXPIRY and ALLOWANCE_EXPIRY whose time has come (R33, R28, R59): LONG_STOP once a stoppage with STOP latched;
the cap set and its expiry removed, nothing else; declared time charged, and OVERRUN. Before their time, nothing (log 2). -/
def Obligations.LongStopCapAndAllowanceExpire : Prop :=
  ∀ (s : State) (l : Fin 8) (ln : Line) (lv : Live), s.onLine l ln lv →
    (∀ st e, lv.condition.stoppage? = some st → st.longStop = some e → st.notified = false → reached e s.runClock = true →
      exec (.longStopExpiry l) s = .next (((s.notify (some l) (.longStop st.number st.root.station st.root.cause)).latch .stop).setLine l
        (some { ln with live := some { lv with condition := lv.condition.mapStoppage fun q => { q with notified := true } } })))
    ∧ (∀ st, lv.condition.stoppage? = some st → (st.notified = true ∨ ∀ e, st.longStop = some e → reached e s.runClock = false) →
      exec (.longStopExpiry l) s = .next s)
    ∧ (∀ st e, lv.condition.stoppage? = some st → st.cap = some e → reached e s.runClock = true →
      exec (.durationCapExpiry l) s = .next (s.setLine l
        (some { ln with live := some { lv with condition := lv.condition.mapStoppage fun q => { q with cap := none, capped := true } } })))
    ∧ (∀ st, lv.condition.stoppage? = some st → (∀ e, st.cap = some e → reached e s.runClock = false) →
      exec (.durationCapExpiry l) s = .next s)
    ∧ (lv.condition.stoppage? = none → exec (.longStopExpiry l) s = .next s ∧ exec (.durationCapExpiry l) s = .next s)
    ∧ (∀ cause start e, lv.condition = .planned cause start → lv.allowanceExpiry = some e → reached e s.runClock = true →
      exec (.allowanceExpiry l) s = .next ((s.setLine l (some { ln with live := some { lv with
          condition := .overrun s.runClock, lastChange := s.runClock, allowanceExpiry := none
          period := lv.period.chargePlanned .planned { station := 255, cause := cause, cls := .planned } (s.runClock - start) } })).notify
        (some l) (.allowanceExceeded false cause)))
    ∧ (∀ cause start e, lv.condition = .changeover cause start → lv.allowanceExpiry = some e → reached e s.runClock = true →
      exec (.allowanceExpiry l) s = .next ((s.setLine l (some { ln with live := some { lv with
          condition := .overrun s.runClock, lastChange := s.runClock, allowanceExpiry := none
          period := lv.period.chargePlanned .changeover { station := 255, cause := cause, cls := .planned } (s.runClock - start) } })).notify
        (some l) (.allowanceExceeded true cause)))
    ∧ ((∀ e, lv.allowanceExpiry = some e → reached e s.runClock = false) → exec (.allowanceExpiry l) s = .next s)

/-- What a SCHEDULED line does with an offer of its constraint, at state-change instant `x` (R24, R26, R29, R31, R36, R37), what a walk made by an
offer of another station, or of the constraint but not to RUN, does in CANDIDATE and STOPPED (R38, R43, `State.walked`), and that a line in another
mode does nothing with an offer (R20). A confirmation whose instant is reached already is taken within the offer (R23, log 11). Slow keeps its value
when the line leaves PRODUCING, and from an entry to PRODUCING slow time accrues (R81, R85), unless the nominal rate is 0 (log 27); a stop placed
back before the instant at which slow was cleared takes no charge of slow ticks back (log 28). -/
def Obligations.OffersOfTheConstraintDriveTheCondition : Prop :=
  (∀ (s : State) (l : Fin 8) (ln : Line) (lv : Live) (r : Station) (x : Tick), s.onLine l ln lv →
    (ln.mode ≠ .scheduled → s.offerReport l r x = s ∧ s.offerSilent l r = s)
    ∧ (ln.mode = .scheduled → r.constraint = false →
      s.walked (s.offerReport l r x) l ln lv ∧ s.walked (s.offerSilent l r) l ln lv)
    ∧ (ln.mode = .scheduled → r.constraint = true → r.reported ≠ some .run →
      ((∃ c, lv.condition = .candidate c) ∨ (∃ st, lv.condition = .stopped st) → s.walked (s.offerReport l r x) l ln lv)
      ∧ (∀ st a b, lv.condition = .restarting st a b → ∀ lv1 : Live, lv1 = { lv with condition := .stopped st, lastChange := x } →
        (s.setLine l (some { ln with live := some lv1 })).walked (s.offerReport l r x) l { ln with live := some lv1 } lv1))
    ∧ (ln.mode = .scheduled → r.constraint = true → r.reported = some .run →
      (∀ st, lv.condition = .stopped st →
        exec (.confirmationExpiry l) (s.setLine l (some { ln with live := some { lv with
          condition := .restarting st x (x + ticks ln.defn.confirmation), lastChange := x } })) = .next (s.offerReport l r x))
      ∧ (∀ st a b, lv.condition = .restarting st a b → s.offerReport l r x = s))
    ∧ (ln.mode = .scheduled → r.constraint = true → lv.condition = .unobserved → s.offerSilent l r = s))
  ∧ ∀ (s : State) (l : Fin 8) (ln : Line) (lv : Live) (r : Station) (x : Tick), s.onLine l ln lv → r.constraint = true →
    (ln.mode = .scheduled → r.reported ≠ some .run →
      (lv.condition = .producing → ∃ lv', s.offerReport l r x = s.setLine l (some { ln with live := some lv' })
        ∧ lv'.condition = .candidate { start := x, chargeStart := x, carriedIn := false, root := s.walk l
                                       promotion := x + ticks ln.defn.promotion }
        ∧ lv'.lastChange = x ∧ lv'.rate.window = none ∧ lv'.rate.lowRun = 0 ∧ lv'.rate.highRun = 0
        ∧ lv'.rate.slowStart = none ∧ (ln.defn.nominalRate ≠ 0 → lv'.rate.slow = lv.rate.slow)
        ∧ (ln.defn.nominalRate = 0 → lv'.rate.slow = false)
        ∧ (lv.rate.slowStart = none → lv'.period.slowTicks = lv.period.slowTicks)
        ∧ (∀ a, lv.rate.slowStart = some a → lv'.period.slowTicks =
            lv.period.slowTicks + (if (s.runClock - x).toNat ≤ (s.runClock - a).toNat then x - a else 0#32))
        ∧ lv'.period.classes = lv.period.classes.add (x - lv.lastChange) .producing)
      ∧ (lv.condition = .unobserved → ∃ lv', s.offerReport l r x = s.setLine l (some { ln with live := some lv' })
        ∧ lv'.condition = .candidate { start := s.runClock, chargeStart := s.runClock, carriedIn := false, root := s.walk l
                                       promotion := s.runClock + ticks ln.defn.promotion }
        ∧ lv'.lastChange = s.runClock
        ∧ lv'.period = lv.period.chargeStretch .unobserved (s.runClock - lv.lastChange))
      ∧ (∀ st a b, lv.condition = .restarting st a b → (s.walk l).sameKey st.root = true →
        s.offerReport l r x = s.setLine l (some { ln with live := some { lv with condition := .stopped st, lastChange := x } })))
    ∧ (ln.mode = .scheduled → r.reported = some .run →
      (lv.condition = .producing → s.offerReport l r x = s)
      ∧ (lv.condition = .unobserved → ∃ lv', s.offerReport l r x = s.setLine l (some { ln with live := some lv' })
        ∧ lv'.condition = .producing ∧ lv'.lastChange = s.runClock ∧ lv'.rate.window = ln.defn.startWindow s.runClock
        ∧ lv'.rate.slow = (lv.rate.slow && ln.defn.nominalRate != 0)
        ∧ lv'.rate.slowStart = (if lv.rate.slow && ln.defn.nominalRate != 0 then some s.runClock else none)
        ∧ lv'.period = lv.period.chargeStretch .unobserved (s.runClock - lv.lastChange))
      ∧ (∀ c, lv.condition = .candidate c → ∃ lv', s.offerReport l r x = s.setLine l (some { ln with live := some lv' })
        ∧ lv'.condition = .producing ∧ lv'.lastChange = x ∧ lv'.rate.window = ln.defn.startWindow x
        ∧ lv'.rate.slow = (lv.rate.slow && ln.defn.nominalRate != 0)
        ∧ lv'.rate.slowStart = (if lv.rate.slow && ln.defn.nominalRate != 0 then some x else none)
        ∧ lv'.period = lv.period.chargeMicroStop c.root (x - c.chargeStart))
      ∧ (∀ st, lv.condition = .stopped st → reached (x + ticks ln.defn.confirmation) s.runClock = false →
        s.offerReport l r x = s.setLine l (some { ln with live := some { lv with
          condition := .restarting st x (x + ticks ln.defn.confirmation), lastChange := x } })))
    ∧ (ln.mode = .scheduled →
      (lv.condition = .producing → ∃ lv', s.offerSilent l r = s.setLine l (some { ln with live := some lv' })
        ∧ lv'.condition = .unobserved ∧ lv'.lastChange = s.runClock ∧ lv'.rate.window = none
        ∧ lv'.period.classes = lv.period.classes.add (s.runClock - lv.lastChange) .producing)
      ∧ (∀ c, lv.condition = .candidate c → s.offerSilent l r = s.setLine l (some { ln with live := some { lv with
          condition := .unobserved, lastChange := s.runClock
          period := lv.period.chargeMicroStop c.root (s.runClock - c.chargeStart) } }))
      ∧ (∀ st, lv.condition.stoppage? = some st → s.offerSilent l r = (s.setLine l (some { ln with live := some { lv with
          condition := .unobserved, lastChange := s.runClock
          period := lv.period.chargeSegment st.root (s.runClock - st.segmentStart) } })).notify (some l)
            (.stopClosed st.number s.runClock (if st.capped then 2147483647#32 else s.runClock - st.start) .constraintUnseen st.segments)))

/-! ## Closes (chapter 6) -/

/-- A close of a line's period, for any reason (R112–R114, R121, R119): the settled record is placed, the oldest of three displaced,
PERIOD_CLOSED queued, PERIOD latched, and the next period opened now with the next number, the condition carried. CLOSE_PERIOD and AGE_LIMIT
make it; an empty period refuses the request (R117). The record's slow ticks do not exceed its PRODUCING total (R108), to which settling bounds them
where more was charged (log 28). Before its instant AGE_LIMIT does nothing (log 2). -/
def Obligations.CloseSettlesPlacesAndOpens : Prop :=
  (∀ (s : State) (p : List Byte), s.ready → p.length = 1 →
    (s.partState = .configuring → exec (.closePeriod p) s = .next (s.respond 0x12#8 (.refuse .wrongState)))
    ∧ (s.partState = .monitoring → 7 < u8 p 0 → exec (.closePeriod p) s = .next (s.respond 0x12#8 .badValue))
    ∧ (s.partState = .monitoring → ∀ l : Fin 8, u8 p 0 = l.val → s.line? l = none →
        exec (.closePeriod p) s = .next (s.respond 0x12#8 (.refuse .notFound))))
  ∧ ∀ (s : State) (l : Fin 8) (ln : Line) (lv : Live) (why : CloseReason), s.onLine l ln lv →
    (∃ (t : State) (record : ClosedRecord) (lv' : Live) (n : BitVec 32), s.closeLine l why = t
      ∧ record =
        { period := (((lv.period.chargeStations s.runClock (lineStations s.stations l)).chargeTo lv.condition lv.lastChange
              s.runClock).chargeSlowTo lv.rate.slowStart s.runClock).boundSlow
          closeTick := s.runClock, closePlant := s.plantTime, reason := why
          outCandidate := lv.condition.candidate?.isSome, outStoppage := lv.condition.stoppage?.map (·.number)
          windowRunning := lv.rate.window.isSome, displaced := none }
      ∧ record.period.slowTicks.toNat ≤ record.period.classes.producing.toNat
      ∧ (s.store[l].length < 3 → t.store[l] = s.store[l] ++ [record]
          ∧ ∀ u, u = (s.notify (some l) (.periodClosed lv.period.number why none)).latch .period →
            t.journal = u.journal ∧ t.attention = u.attention)
      ∧ (∀ oldest rest, s.store[l] = oldest :: rest → 2 ≤ rest.length →
          t.store[l] = rest ++ [{ record with displaced := some oldest.period.number }]
          ∧ ∀ u, u = (s.notify (some l) (.periodClosed lv.period.number why (some oldest.period.number))).latch .period →
            t.journal = u.journal ∧ t.attention = u.attention)
      ∧ t.attention.flags.period = true ∧ t.lastStoppage = s.lastStoppage
      ∧ t.periodCounter[l] = n ∧ (s.periodCounter[l].toNat < 4294967295 → n = s.periodCounter[l] + 1#32)
      ∧ t.stations = s.stations.map (fun r => if r.line = l then { r with accrualStart := some s.runClock } else r)
      ∧ t.line? l = some { ln with live := some lv' }
      ∧ lv' = { lv with
          condition := lv.condition.carry s.runClock, lastChange := s.runClock
          rate := { lv.rate with slowStart := lv.rate.slowStart.map fun _ => s.runClock }
          period := lv'.period, ageLimit := s.runClock + 60480000#32 }
      ∧ lv'.period =
        { line := l, number := n, start := s.runClock, startPlant := s.plantTime, rehearsal := ln.rehearsal
          inCandidate := lv.condition.candidate?.isSome, inStoppage := lv.condition.stoppage?.isSome
          otherUsed := false, saturated := false
          classes := { notScheduled := 0#32, planned := 0#32, changeover := 0#32, overrun := 0#32, unobserved := 0#32
                       producing := 0#32, shortStop := 0#32, stopped := 0#32 }
          carriedShort := 0#32, slowTicks := 0#32, shortfall := 0, completedWindows := 0, stoppagesOpened := 0, microStops := 0
          constraintGood := 0, finishedGood := 0
          runs := [{ product := ln.currentProduct, start := s.runClock, constraintGood := 0, finishedGood := 0 }]
          stations := (lineStations s.stations l).map fun r =>
            { station := r.number, infeed := 0, outfeed := 0, rejects := 0, discontinuities := 0, halted := 0#32, unseen := 0#32 }
          buckets := [], other := none }
      ∧ s.SameBeside t (· = l) ∧ t.links = s.links ∧ t.triggers = s.triggers ∧ t.plant = s.plant ∧ t.host = s.host)
    ∧ (reached lv.ageLimit s.runClock = true → exec (.ageLimit l) s = .next (s.closeLine l .ageLimit))
    ∧ (reached lv.ageLimit s.runClock = false → exec (.ageLimit l) s = .next s)
    ∧ (∀ p, s.ready → p.length = 1 → u8 p 0 = l.val →
        (s.partState = .monitoring → lv.period.start = s.runClock →
            exec (.closePeriod p) s = .next (s.respond 0x12#8 (.refuse .empty)))
        ∧ (s.partState = .monitoring → lv.period.start ≠ s.runClock → ∃ n d : BitVec 32, ∃ present : Bool,
            exec (.closePeriod p) s = .next ((s.closeLine l .request).respond 0x12#8 (.ok
              (encTick lv.period.number ++ encTick n ++ (if present then [1#8] ++ encTick d else [0#8, 0#8, 0#8, 0#8, 0#8])))
            ) ∧ n = (s.closeLine l .request).periodCounter[l]
            ∧ (present = true ↔ 3 ≤ s.store[l].length) ∧ ∀ oldest rest, s.store[l] = oldest :: rest → present = true →
              d = oldest.period.number))

/-- LIST_CLOSED, READ_CLOSED and RELEASE_CLOSED (R122–R124). The count byte before the piece of READ_CLOSED, and that the
number of records of LIST_CLOSED is the count byte of its list, are log 9. The bytes of a record are
those of R193, `ClosedRecord.bytes`. -/
def Obligations.PeriodStoreIsListedReadAndReleased : Prop :=
  ∀ (s : State) (p : List Byte), s.ready →
    (7 < u8 p 0 →
      (p.length = 1 → exec (.listClosed p) s = .next (s.respond 0x34#8 .badValue))
      ∧ (p.length = 8 → exec (.readClosed p) s = .next (s.respond 0x35#8 .badValue))
      ∧ (p.length = 5 → exec (.releaseClosed p) s = .next (s.respond 0x36#8 .badValue)))
    ∧ ∀ l : Fin 8, u8 p 0 = l.val →
      (p.length = 1 → exec (.listClosed p) s = .next (s.respond 0x34#8 (.ok
        (enc1 s.store[l].length ++ s.store[l].flatMap fun r =>
          encTick r.period.number ++ enc1 r.reason.code ++ encFlag r.period.rehearsal ++ encFlag r.displaced.isSome ++ enc2 r.length))))
      ∧ (p.length = 8 →
        (u8 p 7 < 1 ∨ 240 < u8 p 7 → exec (.readClosed p) s = .next (s.respond 0x35#8 .badValue))
        ∧ (1 ≤ u8 p 7 → u8 p 7 ≤ 240 →
          ((∀ r ∈ s.store[l], r.period.number.toNat ≠ u32 p 1) →
            exec (.readClosed p) s = .next (s.respond 0x35#8 (.refuse .notFound)))
          ∧ (∀ before r after, s.store[l] = before ++ r :: after → (∀ q ∈ before, q.period.number.toNat ≠ u32 p 1) →
            r.period.number.toNat = u32 p 1 →
            (r.length ≤ u16 p 5 → exec (.readClosed p) s = .next (s.respond 0x35#8 .badValue))
            ∧ (u16 p 5 < r.length → exec (.readClosed p) s = .next (s.respond 0x35#8 (.ok
              (encTick r.period.number ++ enc2 r.length ++ enc2 (u16 p 5) ++ enc1 ((r.bytes.drop (u16 p 5)).take (u8 p 7)).length
                ++ (r.bytes.drop (u16 p 5)).take (u8 p 7))))))))
      ∧ (p.length = 5 →
        ((∀ r ∈ s.store[l], r.period.number.toNat ≠ u32 p 1) →
          exec (.releaseClosed p) s = .next (s.respond 0x36#8 (.refuse .notFound)))
        ∧ (∀ before r after, s.store[l] = before ++ r :: after → (∀ q ∈ before, q.period.number.toNat ≠ u32 p 1) →
          r.period.number.toNat = u32 p 1 →
          exec (.releaseClosed p) s = .next ({ s with store := s.store.set l (before ++ after) }.respond 0x36#8 .ok)))

/-- READ_OPEN (R126–R128): an offset of 0 builds the snapshot of the live line, settled in the copy alone, into the buffer; an offset above 0 reads
the buffer of the line named; nothing else changes. The count byte before the piece is log 9; that settling bounds the slow ticks by the PRODUCING
total (R108) is log 28. -/
def Obligations.ReadOpenBuildsAndReadsTheSnapshot : Prop :=
  ∀ (s : State) (p : List Byte), s.ready → p.length = 4 →
    (7 < u8 p 0 ∨ u8 p 3 < 1 ∨ 240 < u8 p 3 → exec (.readOpen p) s = .next (s.respond 0x37#8 .badValue))
    ∧ ∀ l : Fin 8, u8 p 0 = l.val → 1 ≤ u8 p 3 → u8 p 3 ≤ 240 →
      (u16 p 1 = 0 →
        (s.partState = .configuring → exec (.readOpen p) s = .next (s.respond 0x37#8 (.refuse .wrongState)))
        ∧ (s.partState = .monitoring → s.line? l = none → exec (.readOpen p) s = .next (s.respond 0x37#8 (.refuse .notFound)))
        ∧ (s.partState = .monitoring → ∀ ln lv r, s.onLine l ln lv →
          r = { period := (((lv.period.chargeStations s.runClock (lineStations s.stations l)).chargeTo lv.condition lv.lastChange
                    s.runClock).chargeSlowTo lv.rate.slowStart s.runClock).boundSlow
                closeTick := s.runClock, closePlant := s.plantTime, reason := .snapshot
                outCandidate := lv.condition.candidate?.isSome, outStoppage := lv.condition.stoppage?.map (·.number)
                windowRunning := lv.rate.window.isSome, displaced := none : ClosedRecord } →
          exec (.readOpen p) s = .next ({ s with snapshot := some r }.respond 0x37#8 (.ok
            (enc1 r.period.line.val ++ encTick r.period.number ++ encTick s.runClock ++ enc2 r.length ++ enc2 0
              ++ enc1 (r.bytes.take (u8 p 3)).length ++ r.bytes.take (u8 p 3))))))
      ∧ (0 < u16 p 1 →
        (s.snapshot = none ∨ (∃ r, s.snapshot = some r ∧ r.period.line ≠ l) →
          exec (.readOpen p) s = .next (s.respond 0x37#8 (.refuse .notFound)))
        ∧ (∀ r, s.snapshot = some r → r.period.line = l →
          (r.length ≤ u16 p 1 → exec (.readOpen p) s = .next (s.respond 0x37#8 .badValue))
          ∧ (u16 p 1 < r.length → exec (.readOpen p) s = .next (s.respond 0x37#8 (.ok
            (enc1 l.val ++ encTick r.period.number ++ encTick r.closeTick ++ enc2 r.length ++ enc2 (u16 p 1)
              ++ enc1 ((r.bytes.drop (u16 p 1)).take (u8 p 3)).length ++ (r.bytes.drop (u16 p 1)).take (u8 p 3)))))))

/-! ## Rehearsal and the resets of a line (chapters 9 and 11) -/

/-- LINE_RESET and a change of rehearsal (R188, R162): the line's period is closed, for its reason and, for a change, under the new setting; then
a carried stoppage is abandoned with its notice, the stations begin anew, the rate state is the initial one, and a SCHEDULED line is UNOBSERVED;
nothing else. The response names the numbers closed, opened and displaced. `v` is the state between the close and the resets. The refusals follow. -/
def Obligations.LineResetAndRehearsalCloseThenReset : Prop :=
  (∀ (s : State) (p : List Byte) (l : Fin 8) (ln : Line) (lv : Live), s.ready → s.partState = .monitoring → u8 p 0 = l.val →
     s.onLine l ln lv →
     (∀ on : Bool, p.length = 2 → u8 p 1 = (if on then 1 else 0) → ln.rehearsal = on →
       exec (.setRehearse p) s = .next (s.respond 0x13#8
         (.ok (encTick lv.period.number ++ encTick lv.period.number ++ [0#8, 0#8, 0#8, 0#8, 0#8]))))
     ∧ ∀ (i : Instr) (kind : Byte) (u v : State) (ln' : Line),
       ((i = .lineReset p ∧ p.length = 1 ∧ kind = 0x15#8 ∧ ln' = ln ∧ u = s.closeLine l .lineReset)
         ∨ ∃ on : Bool, i = .setRehearse p ∧ p.length = 2 ∧ u8 p 1 = (if on then 1 else 0) ∧ ln.rehearsal ≠ on ∧ kind = 0x13#8
           ∧ ln' = { ln with rehearsal := on }
           ∧ u = (s.setLine l (some ln')).closeLine l (if on then .rehearseStart else .rehearseEnd)) →
       v = (match lv.condition.stoppage? with
         | some st => u.notify (some l) (.stopClosed st.number s.runClock (if st.capped then 2147483647#32 else s.runClock - st.start)
             .abandoned st.segments)
         | none => u) →
       ∃ (lv' : Live) (opened : BitVec 32) (displaced : Option (BitVec 32)), u.line? l = some { ln' with live := some lv' }
         ∧ opened = u.periodCounter[l] ∧ (s.store[l].length < 3 → displaced = none)
         ∧ (∀ oldest rest, s.store[l] = oldest :: rest → 2 ≤ rest.length → displaced = some oldest.period.number)
         ∧ exec i s = .next (((({ v with stations := s.stations.map fun r : Station => if r.line = l then { r with
               linkState := .unknown, missRun := 0, goodRun := 0, reported := none, faultCode := 0, reasonCode := 0
               changeInstant := none, lastApplied := none, baselines := none, gap := none, accrualStart := some s.runClock }
               else r } : State)).setLine l (some { ln' with live := some { lv' with
                 condition := if ln.mode = Mode.scheduled then Condition.unobserved else lv'.condition
                 rate := { slow := false, lowRun := 0, highRun := 0, window := none, slowStart := none, last := none } } })).respond kind
             (.ok (encTick lv.period.number ++ encTick opened ++ (match displaced with
               | some d => [1#8] ++ encTick d
               | none => [0#8, 0#8, 0#8, 0#8, 0#8])))))
  ∧ ∀ (s : State) (p : List Byte), s.ready →
     (p.length = 1 →
       (s.partState = .configuring → exec (.lineReset p) s = .next (s.respond 0x15#8 (.refuse .wrongState)))
       ∧ (s.partState = .monitoring → 7 < u8 p 0 → exec (.lineReset p) s = .next (s.respond 0x15#8 .badValue))
       ∧ (s.partState = .monitoring → ∀ l : Fin 8, u8 p 0 = l.val → s.line? l = none →
           exec (.lineReset p) s = .next (s.respond 0x15#8 (.refuse .notFound))))
     ∧ (p.length = 2 →
       (s.partState = .configuring → exec (.setRehearse p) s = .next (s.respond 0x13#8 (.refuse .wrongState)))
       ∧ (s.partState = .monitoring → 7 < u8 p 0 ∨ 1 < u8 p 1 → exec (.setRehearse p) s = .next (s.respond 0x13#8 .badValue))
       ∧ (s.partState = .monitoring → u8 p 1 ≤ 1 → ∀ l : Fin 8, u8 p 0 = l.val → s.line? l = none →
           exec (.setRehearse p) s = .next (s.respond 0x13#8 (.refuse .notFound))))

/-- INJECT_REPORT (R164, R165): its checks in order; then the report or the miss reaches the record as a reply's would, and nothing outside
the station's line changes (`State.tookMiss`, `State.tookGood`). The response says how the report was taken, and gives the
record's link state and runs, and the Run Clock. -/
def Obligations.InjectReportActsAsAReply : Prop :=
  ∀ (s : State) (p : List Byte), s.ready → p.length = 12 →
    (s.partState = .configuring → exec (.injectReport p) s = .next (s.respond 0x14#8 (.refuse .wrongState)))
    ∧ (s.partState = .monitoring →
      (95 < u8 p 0 → exec (.injectReport p) s = .next (s.respond 0x14#8 (.badValue 1)))
      ∧ (u8 p 0 ≤ 95 → 6 < u8 p 1 → exec (.injectReport p) s = .next (s.respond 0x14#8 (.badValue 2)))
      ∧ (u8 p 0 ≤ 95 → u8 p 1 ≤ 6 → 1 < u8 p 10 → exec (.injectReport p) s = .next (s.respond 0x14#8 (.badValue 8)))
      ∧ (u8 p 0 ≤ 95 → u8 p 1 ≤ 6 → u8 p 10 ≤ 1 → 1 < u8 p 11 → exec (.injectReport p) s = .next (s.respond 0x14#8 (.badValue 9)))
      ∧ (u8 p 0 ≤ 95 → u8 p 1 ≤ 6 → u8 p 10 ≤ 1 → u8 p 11 ≤ 1 →
        (s.station? (u8 p 0) = none → exec (.injectReport p) s = .next (s.respond 0x14#8 (.refuse .notFound)))
        ∧ ∀ r, s.station? (u8 p 0) = some r →
          (s.rehearsing r.line = false → exec (.injectReport p) s = .next (s.respond 0x14#8 (.refuse .notRehearsing)))
          ∧ (s.rehearsing r.line = true → ∃ (t : State) (q : Station) (outcome : Nat),
            exec (.injectReport p) s = .next (t.respond 0x14#8 (.ok
              (enc1 outcome ++ enc1 (match q.linkState with | .unknown => 0 | .reporting => 1 | .silent => 2) ++ enc1 q.missRun
                ++ enc1 q.goodRun ++ encTick s.runClock)))
            ∧ t.station? (u8 p 0) = some q
            ∧ (u8 p 11 = 1 → outcome = 2 ∧ s.tookMiss t r ∧ r.tookMiss q (s.link r.link).missThreshold)
            ∧ (u8 p 11 = 0 → outcome = (if q.linkState = .silent then 1 else 0)
              ∧ ∀ rep : Report, rep.state.code = u8 p 1 → rep.restart = (u8 p 10 == 1) → rep.code = u8 p 2 → rep.age = u8 p 3 →
                rep.counters = { infeed := BitVec.ofNat 16 (u16 p 4), outfeed := BitVec.ofNat 16 (u16 p 6)
                                 reject := BitVec.ofNat 16 (u16 p 8) } →
                s.tookGood t r rep ∧ r.tookGood q rep (s.link r.link).returnThreshold s.runClock)
            ∧ s.SameBeside t (· = r.line) ∧ t.links = s.links ∧ t.triggers = s.triggers ∧ t.plant = s.plant ∧ t.host = s.host)))

/-! ## Commit and suspend (chapter 11) -/

/-- COMMIT (R186): refused in MONITORING, and with the line and the reason of the first failure; else every defined line begins its next period
SCHEDULED and UNOBSERVED, every station begins anew, every link with a station hunts and starts its first round (log 12), and nothing else
changes. The contents of an opened period are those of the statement on closes. -/
def Obligations.CommitChecksThenEntersMonitoring : Prop :=
  ∀ s : State, s.ready →
    (s.partState = .monitoring → exec (.commit []) s = .next (s.respond 0x06#8 (.refuse .wrongState)))
    ∧ (s.partState = .configuring →
      ((∀ l, s.line? l = none) →
        exec (.commit []) s = .next (s.respond 0x06#8 { result := .invalidConfig, payload := [255#8, 1#8] }))
      ∧ (∀ l, (s.line? l).isSome → (∀ l', l' < l → (s.line? l').isSome → rolesFilled s.stations l') → ¬rolesFilled s.stations l →
        ∃ why : Nat, exec (.commit []) s = .next (s.respond 0x06#8 { result := .invalidConfig, payload := enc1 l.val ++ enc1 why })
          ∧ why = (if s.stations.countP (fun r => r.line == l) = 0 then 2
              else if s.stations.countP (fun r => r.line == l && r.constraint) ≠ 1 then 3 else 4))
      ∧ ((∃ l, (s.line? l).isSome) → (∀ l, (s.line? l).isSome → rolesFilled s.stations l) → ∃ t : State,
        exec (.commit []) s = .next (t.respond 0x06#8 (.ok (encTick s.runClock
            ++ enc1 (allLines.countP fun l => (s.line? l).isSome)
            ++ (allLines.filter fun l => (s.line? l).isSome).flatMap fun l => enc1 l.val ++ encTick t.periodCounter[l])))
        ∧ t = { s with
            partState := .monitoring, lines := t.lines, periodCounter := t.periodCounter, links := t.links, freeDraws := t.freeDraws
            stations := s.stations.map fun r => { r with
              linkState := .unknown, missRun := 0, goodRun := 0, reported := none, faultCode := 0, reasonCode := 0
              changeInstant := none, lastApplied := none, baselines := none, gap := none, accrualStart := some s.runClock } }
        ∧ (∀ l, s.line? l = none → t.line? l = none ∧ t.periodCounter[l] = s.periodCounter[l])
        ∧ (∀ l ln, s.line? l = some ln →
          (s.periodCounter[l].toNat < 4294967295 → t.periodCounter[l] = s.periodCounter[l] + 1#32)
          ∧ t.line? l = some { ln with
              rehearsal := false, mode := .scheduled, currentProduct := ln.defn.initialProduct
              live := some
                { condition := .unobserved, lastChange := s.runClock, allowanceExpiry := none
                  rate := { slow := false, lowRun := 0, highRun := 0, window := none, slowStart := none, last := none }
                  period := Period.opened l t.periodCounter[l] s.runClock s.plantTime false false false ln.defn.initialProduct
                    (lineStations s.stations l)
                  ageLimit := s.runClock + 60480000#32 } })
        ∧ (∀ k, (linkStations s.stations k = [] → t.link k = s.link k)
          ∧ (linkStations s.stations k ≠ [] → t.link k = { s.link k with
              state := .hunt, deadRounds := 0, busyRun := 0, nextRound := none
              round := some { start := s.runClock, slots := slotList s.stations k, next := 0, validSeen := false
                              phase := .idleCheck } }))))

/-- SUSPEND (R187): refused in CONFIGURING; else each live line's period is closed with reason SUSPEND, a carried stoppage is abandoned with its
notice, the line's live state is discarded and its period counter set back; every link becomes IDLE, and the part CONFIGURING. Nothing else
changes. The response names each line's closed and displaced period. The Journal takes, line by line in ascending order, PERIOD_CLOSED and then any
STOP_CLOSED; the flags stay, but for the latches of these notices and closes (R175). -/
def Obligations.SuspendClosesEveryLine : Prop :=
  ∀ s : State, s.ready →
    (s.partState = .configuring → exec (.suspend []) s = .next (s.respond 0x16#8 (.refuse .wrongState)))
    ∧ (s.partState = .monitoring → s.partSound → ∃ (t : State) (closed : Fin 8 → BitVec 32) (displaced : Fin 8 → Option (BitVec 32)),
      exec (.suspend []) s = .next (t.respond 0x16#8 (.ok (enc1 (allLines.countP fun l => (s.line? l).isSome)
        ++ (allLines.filter fun l => (s.line? l).isSome).flatMap fun l => enc1 l.val ++ encTick (closed l) ++ (match displaced l with
            | some d => [1#8] ++ encTick d
            | none => [0#8, 0#8, 0#8, 0#8, 0#8]))))
      ∧ t = { s with
          partState := .configuring, lines := t.lines, periodCounter := t.periodCounter, links := t.links, freeDraws := t.freeDraws
          store := t.store, journal := t.journal, attention := t.attention
          stations := s.stations.map fun r => if (s.line? r.line).isSome then { r with accrualStart := none } else r }
      ∧ (∀ k, t.link k = { s.link k with state := .idle, round := none, nextRound := none, deadRounds := 0, busyRun := 0 })
      ∧ (∀ l, s.line? l = none → t.line? l = none ∧ t.store[l] = s.store[l] ∧ t.periodCounter[l] = s.periodCounter[l])
      ∧ (∀ l ln lv, s.onLine l ln lv → closed l = lv.period.number ∧ t.line? l = some { ln with live := none }
        ∧ t.store[l] = (s.closeLine l .suspend).store[l] ∧ (s.store[l].length < 3 → displaced l = none)
        ∧ (∀ oldest rest, s.store[l] = oldest :: rest → 2 ≤ rest.length → displaced l = some oldest.period.number)
        ∧ (s.periodCounter[l].toNat < 4294967295 → t.periodCounter[l] = s.periodCounter[l])
        ∧ ((∀ l', l' ≠ l → s.line? l' = none) → t.journal = (match lv.condition.stoppage? with
          | some st => ((s.closeLine l .suspend).notify (some l) (.stopClosed st.number s.runClock
              (if st.capped then 2147483647#32 else s.runClock - st.start) .abandoned st.segments)).journal
          | none => (s.closeLine l .suspend).journal)))
      ∧ (∀ u, u = (allLines.flatMap fun l => match s.live? l with
          | none => []
          | some lv => (l, NoticeBody.periodClosed lv.period.number .suspend (displaced l)) :: (match lv.condition.stoppage? with
            | none => []
            | some st => [(l, NoticeBody.stopClosed st.number s.runClock
                (if st.capped then 2147483647#32 else s.runClock - st.start) .abandoned st.segments)])).foldl
          (fun u n => u.notify (some n.1) n.2) s →
        t.journal = u.journal
        ∧ ((∃ l, (s.line? l).isSome) → t.attention = (u.latch .period).attention)
        ∧ ((∀ l, s.line? l = none) → t.attention = s.attention)))

/-! ## Field links (chapter 8) -/

/-- SET_LINK: its checks in order (R144), then the five settings and the polarity in force of one link. -/
def Obligations.SetLinkReplacesTheSettings : Prop :=
  ∀ (s : State) (p : List Byte), s.ready → p.length = 10 →
    (s.partState = .monitoring → exec (.setLink p) s = .next (s.respond 0x05#8 (.refuse .wrongState)))
    ∧ (s.partState = .configuring →
      (3 < u8 p 0 → exec (.setLink p) s = .next (s.respond 0x05#8 (.badValue 1)))
      ∧ ∀ k : Fin 4, u8 p 0 = k.val →
        (u32 p 1 ≠ 62500 → u32 p 1 ≠ 125000 → u32 p 1 ≠ 250000 → u32 p 1 ≠ 500000 →
          exec (.setLink p) s = .next (s.respond 0x05#8 (.badValue 2)))
        ∧ ∀ rate : BitRate, u32 p 1 = (match rate with
            | .b62500 => 62500 | .b125000 => 125000 | .b250000 => 250000 | .b500000 => 500000) →
          (2 < u8 p 5 → exec (.setLink p) s = .next (s.respond 0x05#8 (.badValue 3)))
          ∧ ∀ mode : PolarityMode, u8 p 5 = (match mode with | .auto => 0 | .normal => 1 | .swapped => 2) →
            (u16 p 6 % 10 ≠ 0 ∨ u16 p 6 < 10 ∨ 2000 < u16 p 6 → exec (.setLink p) s = .next (s.respond 0x05#8 (.badValue 4)))
            ∧ (u16 p 6 % 10 = 0 → 10 ≤ u16 p 6 → u16 p 6 ≤ 2000 →
              (u8 p 8 < 2 ∨ 15 < u8 p 8 → exec (.setLink p) s = .next (s.respond 0x05#8 (.badValue 5)))
              ∧ (2 ≤ u8 p 8 → u8 p 8 ≤ 15 →
                (u8 p 9 < 1 ∨ 8 < u8 p 9 → exec (.setLink p) s = .next (s.respond 0x05#8 (.badValue 6)))
                ∧ (1 ≤ u8 p 9 → u8 p 9 ≤ 8 → exec (.setLink p) s = .next ({ s with links := s.links.set k ({ s.link k with
                    bitRate := rate, polarityMode := mode, pace := u16 p 6 / 10, missThreshold := u8 p 8, returnThreshold := u8 p 9
                    polarity := match mode with
                      | .normal => .normal | .swapped => .swapped | .auto => (s.link k).polarity } : Link) }.respond 0x05#8 .ok)))))

/-- READ_STATION, READ_LINE_STATUS and READ_LINK_STATS (R18, R69, R157): what they refuse, and that they answer the record at the request's tick
and change nothing, but for the statistics that a set clear flag zeroes. The fields stand in the order of R7, R69 and R157, an
optional one after a presence byte, and the numbers of product runs and of slots have one byte (log 9); `opt` is an optional tick, `root` a root and `stop` the part of a stoppage
that stands in STOPPED and RESTARTING alike. -/
def Obligations.RecordsAreReadAndStatisticsCleared : Prop :=
  ∀ (s : State) (p : List Byte) (opt : Option Tick → List Byte) (root : Root → List Byte) (stop : Stoppage → List Byte), s.ready →
    (opt none = [0#8, 0#8, 0#8, 0#8, 0#8] ∧ ∀ t, opt (some t) = [1#8] ++ encTick t) →
    (∀ x, root x = enc1 x.station ++ enc1 x.cause ++ enc1 (match x.cls with
      | .equipment => 0 | .material => 1 | .operator => 2 | .quality => 3 | .utility => 4 | .logistics => 5 | .overrun => 6 | .planned => 7
      | .unassigned => 8)) →
    (∀ st, stop st = encTick st.number ++ encTick st.start
      ++ (match st.startPlant with
        | some t => enc4 t.seconds ++ enc1 t.hundredths
        | none => [0#8, 0#8, 0#8, 0#8, 255#8])
      ++ enc1 st.carriedIn.toNat ++ root st.initial ++ root st.root ++ encTick st.segmentStart ++ enc4 st.segments ++ opt st.longStop
      ++ enc1 st.notified.toNat ++ opt st.cap ++ enc1 st.capped.toNat) →
    (p.length = 1 →
      (95 < u8 p 0 → exec (.readStation p) s = .next (s.respond 0x21#8 .badValue))
      ∧ (u8 p 0 ≤ 95 → s.station? (u8 p 0) = none → exec (.readStation p) s = .next (s.respond 0x21#8 (.refuse .notFound)))
      ∧ (u8 p 0 ≤ 95 → ∀ r, s.station? (u8 p 0) = some r →
          exec (.readStation p) s = .next (s.respond 0x21#8 (.ok
            (enc1 r.number ++ enc1 r.link.val ++ enc1 r.address ++ enc1 r.line.val ++ enc1 r.position
              ++ enc1 (r.constraint.toNat + 2 * r.finish.toNat) ++ enc4 r.maxRate ++ enc1 r.bypassed.toNat
              ++ enc1 (match r.linkState with | .unknown => 0 | .reporting => 1 | .silent => 2) ++ enc1 r.missRun ++ enc1 r.goodRun
              ++ (match r.reported with
                | none => [0#8, 0#8] | some .off => [1#8, 0#8] | some .run => [1#8, 1#8] | some .starved => [1#8, 2#8]
                | some .blocked => [1#8, 3#8] | some .fault => [1#8, 4#8] | some .operatorStop => [1#8, 5#8]
                | some .changeover => [1#8, 6#8])
              ++ enc1 r.faultCode ++ enc1 r.reasonCode ++ opt r.changeInstant ++ opt r.lastApplied
              ++ (match r.baselines with
                | none => List.replicate 9 0#8
                | some c => [1#8] ++ enc2 c.infeed.toNat ++ [1#8] ++ enc2 c.outfeed.toNat ++ [1#8] ++ enc2 c.reject.toNat)
              ++ opt r.accrualStart ++ encTick s.runClock))))
      ∧ (7 < u8 p 0 → exec (.readLineStatus p) s = .next (s.respond 0x22#8 .badValue))
      ∧ (∀ l : Fin 8, u8 p 0 = l.val →
          (s.line? l = none → exec (.readLineStatus p) s = .next (s.respond 0x22#8 (.refuse .notFound)))
          ∧ ∀ (ln : Line) (configured : List Byte), s.line? l = some ln →
            configured = enc1 l.val ++ enc2 ln.defn.initialProduct ++ enc2 (ln.defn.promotion / 100) ++ enc4 (ln.defn.longStop / 100)
              ++ enc1 (ln.defn.confirmation / 100) ++ enc1 ln.defn.windowSeconds ++ enc1 ln.defn.declarePct ++ enc1 ln.defn.clearPct
              ++ enc1 ln.defn.declareWindows ++ enc1 ln.defn.clearWindows ++ enc4 ln.defn.nominalRate
              ++ (match ln.mode with
                | .scheduled => [0#8] ++ List.replicate 10 0#8
                | .notScheduled => [1#8] ++ List.replicate 10 0#8
                | .planned c a => [2#8, 1#8] ++ enc1 c ++ [0#8, 0#8, 0#8, 1#8] ++ enc4 a
                | .changeover c x a => [3#8, 1#8] ++ enc1 c ++ [1#8] ++ enc2 x ++ [1#8] ++ enc4 a) →
            (ln.live = none → exec (.readLineStatus p) s = .next (s.respond 0x22#8 (.ok (configured
              ++ opt none ++ enc2 ln.currentProduct ++ List.replicate (7 + 2 + 5 + 17 + 51) 0#8 ++ encTick s.lastStoppage[l]
              ++ List.replicate (3 + 19 + 5 + 10 + 11) 0#8 ++ encTick s.runClock))))
            ∧ ∀ lv, ln.live = some lv → exec (.readLineStatus p) s = .next (s.respond 0x22#8 (.ok (configured
              ++ opt lv.allowanceExpiry ++ enc2 ln.currentProduct
              ++ (match lv.condition with
                | .planned c t => [1#8] ++ enc1 c ++ [1#8] ++ encTick t
                | .changeover c t => [1#8] ++ enc1 c ++ [2#8] ++ encTick t
                | .overrun t => [1#8, 248#8, 3#8] ++ encTick t
                | .notScheduled | .unobserved | .producing | .candidate _ | .stopped _ | .restarting _ _ _ => List.replicate 7 0#8)
              ++ [1#8] ++ (match lv.condition with
                | .notScheduled => [0#8] | .planned _ _ => [1#8] | .changeover _ _ => [2#8] | .overrun _ => [3#8] | .unobserved => [4#8]
                | .producing => [5#8] | .candidate _ => [6#8] | .stopped _ => [7#8] | .restarting _ _ _ => [8#8])
              ++ [1#8] ++ encTick lv.lastChange
              ++ (match lv.condition with
                | .candidate c => [1#8] ++ encTick c.start ++ encTick c.chargeStart ++ enc1 c.carriedIn.toNat ++ root c.root
                    ++ encTick c.promotion ++ List.replicate 51 0#8
                | .stopped st => List.replicate 17 0#8 ++ [1#8] ++ stop st ++ opt none ++ opt none
                | .restarting st a b => List.replicate 17 0#8 ++ [1#8] ++ stop st ++ opt (some a) ++ opt (some b)
                | .notScheduled | .planned _ _ | .changeover _ _ | .overrun _ | .unobserved | .producing => List.replicate (17 + 51) 0#8)
              ++ encTick s.lastStoppage[l]
              ++ enc1 lv.rate.slow.toNat ++ enc1 lv.rate.lowRun ++ enc1 lv.rate.highRun
              ++ (match lv.rate.window with
                | none => List.replicate 19 0#8
                | some w => [1#8] ++ encTick w.start ++ encTick w.expiry ++ enc4 w.expected ++ enc1 w.declarePct ++ enc1 w.clearPct
                    ++ enc4 w.actual)
              ++ opt lv.rate.slowStart
              ++ (match lv.rate.last with
                | none => List.replicate 10 0#8
                | some (actual, expected) => [1#8] ++ enc4 actual ++ [1#8] ++ enc4 expected)
              ++ [1#8] ++ encTick lv.period.number ++ encTick lv.period.start ++ enc1 lv.period.rehearsal.toNat
              ++ enc1 lv.period.runs.length ++ encTick s.runClock)))))
    ∧ (p.length = 2 →
      (3 < u8 p 0 ∨ 1 < u8 p 1 → exec (.readLinkStats p) s = .next (s.respond 0x30#8 .badValue))
      ∧ ∀ k : Fin 4, u8 p 0 = k.val → u8 p 1 ≤ 1 → ∃ t : State,
        exec (.readLinkStats p) s = .next (t.respond 0x30#8 (.ok
          (enc4 (s.link k).stats.pollsSent ++ enc4 (s.link k).stats.goodReplies ++ enc4 (s.link k).stats.timeouts
            ++ enc4 (s.link k).stats.checkErrors ++ enc4 (s.link k).stats.contentErrors ++ enc4 (s.link k).stats.busySkips
            ++ enc4 (s.link k).stats.flips
            ++ (match (s.link k).state with
              | .idle => [0#8, 0#8, 0#8] | .hunt => [1#8, 0#8, 0#8] | .active => [2#8, 0#8, 0#8]
              | .fault .noReplies => [3#8, 1#8, 0#8] | .fault .busStuck => [3#8, 1#8, 1#8])
            ++ enc1 (s.link k).polarityMode.code ++ enc1 (s.link k).polarity.code ++ enc1 (s.link k).deadRounds
            ++ enc1 (s.link k).busyRun ++ enc4 (s.link k).bitRate.bps ++ enc1 (s.link k).polarityMode.code
            ++ enc2 (10 * (s.link k).pace) ++ enc1 (s.link k).missThreshold ++ enc1 (s.link k).returnThreshold
            ++ enc1 (slotList s.stations k).length ++ encTick s.runClock)))
        ∧ (u8 p 1 = 0 → t = s)
        ∧ (u8 p 1 = 1 → t = { s with links := s.links.set k ({ s.link k with stats :=
            { pollsSent := 0, goodReplies := 0, timeouts := 0, checkErrors := 0, contentErrors := 0, busySkips := 0
              flips := 0 } } : Link) }))

/-- The poll of a slot, event by event (R147–R149, R154, R155, R194): a round starts when it may; an idle pair is polled, driven with the telegram of
the address in the polarity in force, and the busy run is cleared (log 13); a start bit in the polarity in force, SWAPPED exchanging FnA and FnB, skips
the slot busy, and the tenth skip in a row is BUS_STUCK; a skip of the last slot completes the round; the poll's end begins the reply wait; a reply's
characters gather as the polarity in force reads them. Where an event cannot occur, nothing (log 2, log 16). Which wire carries the bits in NORMAL, and
that a start bit is low, is log 26. `put` is the link put back, and `wire` the wire that carries the bits. -/
def Obligations.PollSlotGoesThroughItsPhases : Prop :=
  ∀ (s : State) (k : Fin 4) (put : Link → State), (∀ L, put L = { s with links := s.links.set k L }) →
    (∀ at_, (s.link k).round = none → (s.link k).nextRound = some at_ → (s.link k).state ≠ .idle → reached at_ s.runClock = true →
      exec (.roundStart k) s = .next (put { s.link k with
        nextRound := none
        round := some { start := s.runClock, slots := slotList s.stations k, next := 0, validSeen := false, phase := .idleCheck } }))
    ∧ ((s.link k).round.isSome ∨ (s.link k).nextRound = none ∨ (s.link k).state = .idle
        ∨ (∃ at_, (s.link k).nextRound = some at_ ∧ reached at_ s.runClock = false) → exec (.roundStart k) s = .next s)
    ∧ (∀ r st, s.inSlot k r .idleCheck st → ∃ telegram : List Byte, exec (.idleCheckExpiry k) s = .next (put { s.link k with
        busyRun := 0
        round := some { r with phase := .sendingPoll (telegram.map fun b => match (s.link k).polarity with
          | .normal => { fnA := b, fnB := ~~~b }
          | .swapped => { fnA := ~~~b, fnB := b }) } })
      ∧ telegram = [0x3C#8, BitVec.ofNat 8 st.address, 0x0F#8] ++ enc2 (crc16 [0x3C#8, BitVec.ofNat 8 st.address, 0x0F#8]).toNat)
    ∧ (∀ (r : Round) (level : Pair Bool) (wire : Bool), (s.link k).round = some r → r.phase = .idleCheck →
      wire = (match (s.link k).polarity with
        | .normal => level.fnA
        | .swapped => level.fnB) →
      (wire = true → exec (.skippedBusy ⟨k, level⟩) s = .next s)
      ∧ (wire = false → ∃ (t u : State) (L : Link), exec (.skippedBusy ⟨k, level⟩) s = .next t
        ∧ L = { s.link k with
            busyRun := min ((s.link k).busyRun + 1) 255
            stats := { (s.link k).stats with busySkips := satAdd (s.link k).stats.busySkips 1 } }
        ∧ ((s.link k).busyRun ≠ 9 → u = put L)
        ∧ ((s.link k).busyRun = 9 →
          ((s.link k).state = .hunt ∨ (s.link k).state = .active →
            u = ((put { L with state := .fault .busStuck, deadRounds := 0 }).notify none (.linkFault k .busStuck)).latch .link)
          ∧ ((s.link k).state = .fault .noReplies →
            u = ((put { L with state := .fault .busStuck }).notify none (.linkFault k .busStuck)).latch .link)
          ∧ ((s.link k).state = .fault .busStuck ∨ (s.link k).state = .idle → u = put L))
        ∧ u.slotOver t k r
        ∧ (t.link k).busyRun = min ((s.link k).busyRun + 1) 255
        ∧ (t.link k).stats.busySkips = satAdd (s.link k).stats.busySkips 1
        ∧ (r.next + 1 < r.slots.length → (t.link k).round = some { r with next := r.next + 1 } ∧ (t.link k).stats = L.stats)
        ∧ (r.slots.length ≤ r.next + 1 → (t.link k).round = none)
        ∧ t = { s with links := t.links, journal := t.journal, attention := t.attention }
        ∧ ∀ k', k' ≠ k → t.link k' = s.link k'))
    ∧ (∀ r driven, (s.link k).round = some r → r.phase = .sendingPoll driven → (s.link k).driverEnabled = true
      ∧ exec (.pollSent k) s = .next (put { s.link k with round := some { r with phase := .replyWait } }))
    ∧ (∀ r, (s.link k).round = some r →
      ((∀ driven, r.phase ≠ .sendingPoll driven) → (s.link k).driverEnabled = false ∧ exec (.pollSent k) s = .next s)
      ∧ (r.phase ≠ .idleCheck → exec (.idleCheckExpiry k) s = .next s ∧ ∀ level, exec (.skippedBusy ⟨k, level⟩) s = .next s)
      ∧ (∀ (level : Pair Bool) (wire : Bool), wire = (match (s.link k).polarity with
          | .normal => level.fnA
          | .swapped => level.fnB) →
        (wire = true → exec (.replyCharacterReceived k (.begins level)) s = .next s)
        ∧ (wire = false → r.phase = .replyWait → exec (.replyCharacterReceived k (.begins level)) s =
            .next (put { s.link k with round := some { r with phase := .receiving [] true } }))
        ∧ (∀ cs, wire = false → r.phase = .receiving cs false → cs.length < 13 → exec (.replyCharacterReceived k (.begins level)) s =
            .next (put { s.link k with round := some { r with phase := .receiving cs true } })))
      ∧ (∀ cs (w : Pair Byte) (character : Byte), character = (match (s.link k).polarity with
          | .normal => w.fnA
          | .swapped => w.fnB) → r.phase = .receiving cs true → exec (.replyCharacterReceived k (.ends w)) s =
          .next (put { s.link k with round := some { r with phase := .receiving (cs ++ [character]) false } }))
      ∧ (r.phase = .idleCheck ∨ (∃ driven, r.phase = .sendingPoll driven) →
          ∀ edge, exec (.replyCharacterReceived k edge) s = .next s)
      ∧ (∀ cs w, r.phase = .replyWait ∨ r.phase = .receiving cs false → exec (.replyCharacterReceived k (.ends w)) s = .next s)
      ∧ (∀ cs level, r.phase = .receiving cs true ∨ (r.phase = .receiving cs false ∧ 13 ≤ cs.length) →
          exec (.replyCharacterReceived k (.begins level)) s = .next s))
    ∧ ((s.link k).round = none → (s.link k).driverEnabled = false ∧ exec (.idleCheckExpiry k) s = .next s
      ∧ (∀ level, exec (.skippedBusy ⟨k, level⟩) s = .next s) ∧ exec (.pollSent k) s = .next s
      ∧ ∀ edge, exec (.replyCharacterReceived k edge) s = .next s)

/-- The three ends of a slot (R149, R150): no reply is a timeout, a short reply a check error, and 14 characters are judged: the report of the
node polled is good, with state code 7 it is a content error, and anything else is a check error. The 14th character is read in the polarity
in force (R194, log 26). What each does, to the link's counts, state and slot or round, to the station's record and its line, and which notices it queues, is `State.tookOutcome`. A 14th character
before 13 does nothing (log 16), and neither does an end of a slot in another phase or without a round (log 2): a reply wait is over once a character
has begun, a gap and a 14th character come in the reception alone, and none of the three comes within a character. -/
def Obligations.ReplyIsJudgedAndTaken : Prop :=
  ∀ (s : State) (k : Fin 4) (r : Round) (st : Station),
    (s.inSlot k r .replyWait st → ∃ t, exec (.replyWaitExpiry k) s = .next t ∧ s.tookOutcome t k r st .timeout)
    ∧ (∀ cs, s.inSlot k r (.receiving cs false) st →
      (∃ t, exec (.replyGapExpiry k) s = .next t ∧ s.tookOutcome t k r st .checkError)
      ∧ (cs.length ≠ 13 → ∀ w, exec (.replyReceived k w) s = .next s)
      ∧ (∀ (w : Pair Byte) (last : Byte), cs.length = 13 →
        last = (match (s.link k).polarity with
          | .normal => w.fnA
          | .swapped => w.fnB) →
        ∃ t o, exec (.replyReceived k w) s = .next t ∧ s.tookOutcome t k r st o
        ∧ (∀ status code age infeed outfeed reject : Nat, status < 256 → code < 256 → age < 256 → infeed < 65536 → outfeed < 65536 →
          reject < 65536 → st.address < 256 → cs ++ [last] = reportTelegram st.address status code age infeed outfeed reject →
          (status % 8 = 7 → o = .contentError)
          ∧ (∀ state : ReportedState, status % 8 = state.code → o = .good
            { state := state, restart := status.testBit 7, code := code, age := age
              counters := { infeed := BitVec.ofNat 16 infeed, outfeed := BitVec.ofNat 16 outfeed
                            reject := BitVec.ofNat 16 reject } }))
        ∧ ((∀ status code age infeed outfeed reject : Nat,
            cs ++ [last] ≠ reportTelegram st.address status code age infeed outfeed reject) → o = .checkError)))
    ∧ ((s.link k).round = none ∨ (∃ r', (s.link k).round = some r' ∧ (r'.phase = .idleCheck ∨ ∃ telegram, r'.phase = .sendingPoll telegram)) →
      exec (.replyWaitExpiry k) s = .next s ∧ exec (.replyGapExpiry k) s = .next s ∧ ∀ last, exec (.replyReceived k last) s = .next s)
    ∧ (∀ r', (s.link k).round = some r' →
      (∀ cs within, r'.phase = .receiving cs within → exec (.replyWaitExpiry k) s = .next s)
      ∧ (r'.phase = .replyWait ∨ (∃ cs, r'.phase = .receiving cs true) →
        exec (.replyGapExpiry k) s = .next s ∧ ∀ last, exec (.replyReceived k last) s = .next s))

/-- R146, and the end of a round (R153, R154): the slots of a round by node address, the constraints' again after the first half; a dead round
faults an ACTIVE link, flips a hunt's polarity at 3 and faults it at 6 under AUTO, or faults it at 3 under a fixed polarity; in FAULT every third
flips under AUTO. Shown for a last slot that ends by a timeout, by a check error or by a busy skip that is not the tenth; `u` is the state before the
round is completed, the link as it was but for its counts and the station's miss taken, unless its line rehearses. A start bit's level is log 26. -/
def Obligations.RoundsAreListedAndDeadRoundsCounted : Prop :=
  (∀ (s : State) (k : Fin 4), s.enrollmentSound → ∃ rs : List Station, rs.Pairwise (fun a b => a.address < b.address)
    ∧ (∀ r, r ∈ rs ↔ r ∈ s.stations ∧ r.link = k)
    ∧ slotList s.stations k = (rs.take (rs.length / 2) ++ rs.filter (·.constraint) ++ rs.drop (rs.length / 2)).map (·.number))
  ∧ ∀ (s : State) (k : Fin 4) (r : Round) (i : Instr), r.slots.length ≤ r.next + 1 → r.validSeen = false →
    ((∃ st, i = .replyWaitExpiry k ∧ s.inSlot k r .replyWait st)
      ∨ (∃ cs st, i = .replyGapExpiry k ∧ s.inSlot k r (.receiving cs false) st)
      ∨ (∃ cs st w, i = .replyReceived k w ∧ s.inSlot k r (.receiving cs false) st ∧ cs.length = 13
          ∧ judgeReply st.address (cs ++ [(s.link k).polarity.read w]) = .checkError)
      ∨ (∃ level, i = .skippedBusy ⟨k, level⟩ ∧ (s.link k).round = some r ∧ r.phase = .idleCheck
          ∧ (s.link k).polarity.seesStart level = true ∧ (s.link k).busyRun ≠ 9)) →
    ∃ u t : State, exec i s = .next t ∧ u.roundOver t k r ∧ (t.link k).round = none
      ∧ u.link k = { s.link k with stats := (u.link k).stats, busyRun := (u.link k).busyRun }
      ∧ (u.link k).stats.flips = (s.link k).stats.flips
      ∧ (∀ k', k' ≠ k → t.link k' = s.link k')
      ∧ t = { u with links := t.links, journal := t.journal, attention := t.attention }
      ∧ ((∀ st, s.slotStation r = some st → s.rehearsing st.line = true) → u = { s with links := u.links })
      ∧ (t.link k).polarityMode = (s.link k).polarityMode
      ∧ ((s.link k).state = .active
          ∨ ((s.link k).state = .hunt ∧ (s.link k).polarityMode ≠ .auto ∧ 2 ≤ (s.link k).deadRounds)
          ∨ ((s.link k).state = .hunt ∧ (s.link k).polarityMode = .auto ∧ 5 ≤ (s.link k).deadRounds) →
        (t.link k).state = .fault .noReplies ∧ (t.link k).deadRounds = 0 ∧ (t.link k).polarity = (s.link k).polarity
        ∧ t.attention.flags.link = true ∧ t.journal = (u.notify none (.linkFault k .noReplies)).journal)
      ∧ ((s.link k).state = .hunt → (s.link k).polarityMode = .auto → (s.link k).deadRounds = 2 →
        (t.link k).state = .hunt ∧ (t.link k).deadRounds = 3 ∧ (t.link k).polarity ≠ (s.link k).polarity
        ∧ (t.link k).stats.flips = satAdd (s.link k).stats.flips 1
        ∧ t.journal = (u.notify none (.linkPolarity k (t.link k).polarity)).journal)
      ∧ ((s.link k).state = .hunt →
          (s.link k).deadRounds < 2 ∨ ((s.link k).polarityMode = .auto ∧ 2 < (s.link k).deadRounds ∧ (s.link k).deadRounds < 5) →
        (t.link k).state = .hunt ∧ (t.link k).deadRounds = (s.link k).deadRounds + 1 ∧ (t.link k).polarity = (s.link k).polarity
        ∧ t.journal = u.journal ∧ t.attention = u.attention)
      ∧ (∀ w, (s.link k).state = .fault w →
        (t.link k).state = .fault w ∧ t.journal = u.journal ∧ t.attention = u.attention
        ∧ ((s.link k).polarityMode = .auto → (s.link k).deadRounds < 2 →
          (t.link k).deadRounds = (s.link k).deadRounds + 1 ∧ (t.link k).polarity = (s.link k).polarity)
        ∧ ((s.link k).polarityMode = .auto → 2 ≤ (s.link k).deadRounds → (t.link k).deadRounds = 0
          ∧ (t.link k).polarity ≠ (s.link k).polarity ∧ (t.link k).stats.flips = satAdd (s.link k).stats.flips 1)
        ∧ ((s.link k).polarityMode ≠ .auto → (t.link k).deadRounds = (s.link k).deadRounds
          ∧ (t.link k).polarity = (s.link k).polarity))

/-! ## What every step keeps -/

/-- The account's laws: in every open period, closed record and snapshot the eight classes add up to the time the period has charged, the
buckets and runs add up to the period's counts and classes (until a count saturates), and the bucket list is as R104 gives it; the slow ticks of a closed record
and of the snapshot do not exceed its PRODUCING total (R108), which settling sees to (log 28). -/
def Obligations.AccountStaysSound : Prop := ∀ s t : State, s.accountSound → step s = .next t → t.accountSound

/-- No line ever has more than three records in the Period Store (R120, R121). -/
def Obligations.PeriodStoreStaysSound : Prop := ∀ s t : State, s.storeSound → step s = .next t → t.storeSound

/-- A link's dead rounds and busy run stay in range, and its polls sent are its outcomes, until the count saturates. -/
def Obligations.LinksStaySound : Prop := ∀ s t : State, s.linksSound → step s = .next t → t.linksSound

/-- What only its own commands change: the Run Clock, the Plant Clock, the part state, the reset phase, the snapshot, the Cause Map, the notice
mask and watermark, the enables and NOTICE mode, a link's settings, the stations' configuration, the line definitions, the triggers. An event of a
line changes no other line, and no link; an event of a slot changes its link, the Journal and the flags alone. A latched flag stays set until
CLEAR_ATTENTION, over every part-state change (R175); NOTICE until then too in mode FIRST, unless SET_ATTENTION sets it by the queue, and in mode
LEVEL until TAKE_NOTICES (R176). -/
def Obligations.SettingsAreChangedByTheirCommandsAlone : Prop :=
  ∀ (c : Instr) (s t : State), exec c s = .next t → carriesAny c = false →
    ((∀ a b, c ≠ .startUpEnd a b) → c ≠ .resetRelease → t.resetPhase = s.resetPhase)
    ∧ (c ≠ .runClockTick → t.runClock = s.runClock)
    ∧ (c ≠ .plantSecondAdvance → c ≠ .plantClockLimit → (∀ p, c ≠ .loadClock p ∧ c ≠ .stepClock p) → t.plant = s.plant)
    ∧ ((∀ p, c ≠ .commit p ∧ c ≠ .suspend p) → t.partState = s.partState)
    ∧ ((∀ p, c ≠ .readOpen p) → t.snapshot = s.snapshot)
    ∧ ((∀ p, c ≠ .mapCause p ∧ c ≠ .unmapCause p) → t.causeMap = s.causeMap)
    ∧ ((∀ p, c ≠ .setNoticeMask p) → t.journal.mask = s.journal.mask)
    ∧ ((∀ p, c ≠ .setWatermark p) → t.journal.watermark = s.journal.watermark)
    ∧ ((∀ p, c ≠ .setAttention p) → t.attention.enables = s.attention.enables ∧ t.attention.mode = s.attention.mode)
    ∧ ((∀ p, c ≠ .clearAttention p) →
      (∀ f, f ≠ .notice → s.attention.flags.get f = true → t.attention.flags.get f = true)
      ∧ ((∀ p, c ≠ .setAttention p) → s.attention.mode = .first ∨ (∀ p, c ≠ .takeNotices p) →
        s.attention.flags.notice = true → t.attention.flags.notice = true))
    ∧ ((∀ p, c ≠ .setLink p) → ∀ k, (t.link k).bitRate = (s.link k).bitRate ∧ (t.link k).polarityMode = (s.link k).polarityMode
      ∧ (t.link k).pace = (s.link k).pace ∧ (t.link k).missThreshold = (s.link k).missThreshold
      ∧ (t.link k).returnThreshold = (s.link k).returnThreshold)
    ∧ ((∀ p, c ≠ .enrollStation p ∧ c ≠ .removeStation p ∧ c ≠ .bypassStation p) →
      t.stations.map Station.config = s.stations.map Station.config)
    ∧ ((∀ p, c ≠ .defineLine p ∧ c ≠ .undefineLine p ∧ c ≠ .setRate p) →
      ∀ l, (t.line? l).map (·.defn) = (s.line? l).map (·.defn))
    ∧ ((∀ p, c ≠ .armTrigger p ∧ c ≠ .disarmTrigger p ∧ c ≠ .loadClock p ∧ c ≠ .stepClock p) → (∀ k, c ≠ .triggerExpiry k) →
      t.triggers = s.triggers)
    ∧ (∀ l, c = .promotionExpiry l ∨ c = .confirmationExpiry l ∨ c = .longStopExpiry l ∨ c = .durationCapExpiry l ∨ c = .allowanceExpiry l
        ∨ c = .windowExpiry l ∨ c = .ageLimit l → s.SameBeside t (· = l) ∧ t.links = s.links ∧ t.host = s.host)
    ∧ (∀ k, c = .roundStart k ∨ c = .idleCheckExpiry k ∨ (∃ level, c = .skippedBusy ⟨k, level⟩) ∨ c = .pollSent k ∨ (∃ e, c = .replyCharacterReceived k e) →
      t = { s with links := t.links, journal := t.journal, attention := t.attention } ∧ ∀ k', k' ≠ k → t.link k' = s.link k')
end

