-- ==== Sys2Proof/Laws/Account.lean ====
section
/-! SUPPORT. What each charge does to the soundness of a period's account (R65, R99, R104, R105, R107), and to the eight classes together. -/

namespace Sys2Proof.Machine

/-! ## Sums -/

@[simp] theorem sumTicks_nil : sumTicks [] = 0#32 := rfl
@[simp] theorem sumTicks_cons (t : Tick) (ts : List Tick) : sumTicks (t :: ts) = t + sumTicks ts := rfl
@[simp] theorem sumCounts_nil : sumCounts [] = 0 := rfl
@[simp] theorem sumCounts_cons (n : Nat) (ns : List Nat) : sumCounts (n :: ns) = n + sumCounts ns := rfl

theorem sumTicks_append (a b : List Tick) : sumTicks (a ++ b) = sumTicks a + sumTicks b := by
  induction a with
  | nil => simp
  | cons t ts ih => simp [ih, BitVec.add_assoc]

theorem sumCounts_append (a b : List Nat) : sumCounts (a ++ b) = sumCounts a + sumCounts b := by
  induction a with
  | nil => simp
  | cons t ts ih => simp [ih, Nat.add_assoc]

/-- Adding ticks to a class adds them to the total of the eight. -/
@[simp] theorem ClassTotals.total_add (t : ClassTotals) (n : Tick) (c : TimeClass) : (t.add n c).total = t.total + n := by
  cases c <;> simp only [ClassTotals.add, ClassTotals.total] <;> ac_rfl

@[simp] theorem ClassTotals.total_zero : ClassTotals.zero.total = 0#32 := rfl

theorem satAdd_of_not_over {a n : Nat} (h : satOver a n = false) : satAdd a n = a + n := by
  simp [satOver, satAdd] at *; omega

/-! ## Buckets -/

section
variable {b : Bucket} {d : BucketPart}

theorem Bucket.add_station : (b.add d).station = b.station := rfl
theorem Bucket.add_cause : (b.add d).cause = b.cause := rfl

/-- Changing the first bucket of a key adds the part once to each sum. -/
theorem sum_modifyFirst_add (r : Root) (d : BucketPart) (bs : List Bucket) {b : Bucket} (h : bs.find? (·.hasKey r) = some b) :
    sumTicks ((modifyFirst (·.hasKey r) (·.add d) bs).map (·.stopTicks)) = sumTicks (bs.map (·.stopTicks)) + d.stopTicks
    ∧ sumTicks ((modifyFirst (·.hasKey r) (·.add d) bs).map (·.microTicks)) = sumTicks (bs.map (·.microTicks)) + d.microTicks
    ∧ (b.overflows d = false →
        sumCounts ((modifyFirst (·.hasKey r) (·.add d) bs).map (·.stoppages)) = sumCounts (bs.map (·.stoppages)) + d.stoppages
        ∧ sumCounts ((modifyFirst (·.hasKey r) (·.add d) bs).map (·.microStops))
            = sumCounts (bs.map (·.microStops)) + d.microStops) := by
  induction bs with
  | nil => simp at h
  | cons a as ih =>
    by_cases ha : a.hasKey r = true
    · rw [List.find?_cons_of_pos (by simpa using ha), Option.some.injEq] at h
      subst h
      simp only [modifyFirst, ha, if_true, List.map_cons, sumTicks_cons, sumCounts_cons, Bucket.add]
      refine ⟨by ac_rfl, by ac_rfl, fun ho => ?_⟩
      simp only [Bucket.overflows, Bool.or_eq_false_iff] at ho
      rw [satAdd_of_not_over ho.1, satAdd_of_not_over ho.2]
      omega
    · replace ha : a.hasKey r = false := by simpa using ha
      rw [List.find?_cons_of_neg (by simp [ha])] at h
      obtain ⟨h1, h2, h3⟩ := ih h
      simp only [modifyFirst, ha, Bool.false_eq_true, if_false, List.map_cons, sumTicks_cons, sumCounts_cons, h1, h2]
      refine ⟨by ac_rfl, by ac_rfl, fun ho => ?_⟩
      rw [(h3 ho).1, (h3 ho).2]
      omega

/-- A change that keeps a projection keeps its list. -/
theorem map_modifyFirst {α β : Type} (p : α → Bool) (f : α → α) (g : α → β) (hf : ∀ a, g (f a) = g a) (as : List α) :
    (modifyFirst p f as).map g = as.map g := by
  induction as with
  | nil => rfl
  | cons a as ih => unfold modifyFirst; split <;> simp [hf, ih]

theorem length_modifyFirst {α : Type} (p : α → Bool) (f : α → α) (as : List α) : (modifyFirst p f as).length = as.length := by
  induction as with
  | nil => rfl
  | cons a as ih => unfold modifyFirst; split <;> simp [ih]
end

/-- The keys of a bucket list. -/
def keys (bs : List Bucket) : List (Nat × Nat) := bs.map fun b => (b.station, b.cause)

theorem pairwise_keys {bs : List Bucket} :
    bs.Pairwise (fun a b => ¬(a.station = b.station ∧ a.cause = b.cause)) ↔ (keys bs).Pairwise (· ≠ ·) := by
  simp [keys, List.pairwise_map]

/-- What a bucket charge leaves: everything but the bucket list and the two flags. -/
theorem Period.bucketCharge_fields (p : Period) (r : Root) (d : BucketPart) :
    (p.bucketCharge r d).classes = p.classes ∧ (p.bucketCharge r d).carriedShort = p.carriedShort
    ∧ (p.bucketCharge r d).stoppagesOpened = p.stoppagesOpened ∧ (p.bucketCharge r d).microStops = p.microStops
    ∧ (p.bucketCharge r d).runs = p.runs ∧ (p.bucketCharge r d).start = p.start
    ∧ (p.bucketCharge r d).constraintGood = p.constraintGood ∧ (p.bucketCharge r d).finishedGood = p.finishedGood
    ∧ (p.bucketCharge r d).stations = p.stations ∧ (p.bucketCharge r d).line = p.line
    ∧ (p.bucketCharge r d).number = p.number ∧ (p.bucketCharge r d).rehearsal = p.rehearsal := by
  unfold Period.bucketCharge
  split
  · simp
  · split <;> simp

/-- A bucket charge keeps the list as R104 says, and adds its part once to each sum over the buckets (R101–R105). -/
theorem Period.bucketCharge_spec (p : Period) (r : Root) (d : BucketPart) (h : p.bucketsListed)
    (hd : d.stoppages ≤ 1) (hm : d.microStops ≤ 1) :
    (p.bucketCharge r d).bucketsListed
    ∧ (p.bucketCharge r d).stopTicks = p.stopTicks + d.stopTicks ∧ (p.bucketCharge r d).microTicks = p.microTicks + d.microTicks
    ∧ ((p.bucketCharge r d).saturated = false → p.saturated = false
        ∧ sumCounts ((p.bucketCharge r d).allBuckets.map (·.stoppages)) = sumCounts (p.allBuckets.map (·.stoppages)) + d.stoppages
        ∧ sumCounts ((p.bucketCharge r d).allBuckets.map (·.microStops))
            = sumCounts (p.allBuckets.map (·.microStops)) + d.microStops) := by
  obtain ⟨hl, hk, ho⟩ := h
  unfold Period.bucketCharge
  split
  · rename_i b hb
    have hs := sum_modifyFirst_add r d p.buckets hb
    refine ⟨⟨by simpa [length_modifyFirst] using hl, ?_, by simpa [length_modifyFirst] using ho⟩, ?_, ?_, ?_⟩
    · have hm := map_modifyFirst (·.hasKey r) (·.add d) (fun b : Bucket => (b.station, b.cause)) (fun _ => rfl) p.buckets
      exact pairwise_keys.2 (show List.Pairwise _ (List.map _ _) by rw [hm]; exact pairwise_keys.1 hk)
    · simp only [Period.stopTicks, Period.allBuckets, List.map_append, sumTicks_append, hs.1]; ac_rfl
    · simp only [Period.microTicks, Period.allBuckets, List.map_append, sumTicks_append, hs.2.1]; ac_rfl
    · simp only [Bool.or_eq_false_iff, Period.allBuckets, List.map_append, sumCounts_append]
      rintro ⟨h1, h2⟩
      rw [(hs.2.2 h2).1, (hs.2.2 h2).2]
      exact ⟨h1, by omega, by omega⟩
  · rename_i hn
    split
    · rename_i hlt
      have hno : p.other = none := by
        cases hp : p.other with
        | none => rfl
        | some o => have := (ho (by simp [hp])).2; omega
      refine ⟨⟨by simp; omega, ?_, by simp [hno]⟩, ?_, ?_, ?_⟩
      · rw [List.pairwise_append]
        refine ⟨hk, by simp, ?_⟩
        intro a ha b hb
        simp only [List.mem_singleton] at hb
        subst hb
        have := List.find?_eq_none.1 hn a ha
        simp only [Bucket.hasKey, Bool.and_eq_true, beq_iff_eq] at this
        simpa [Bucket.add, Bucket.fresh] using this
      · simp [Period.stopTicks, Period.allBuckets, hno, sumTicks_append, Bucket.add, Bucket.fresh]
      · simp [Period.microTicks, Period.allBuckets, hno, sumTicks_append, Bucket.add, Bucket.fresh]
      · intro hsat
        refine ⟨hsat, ?_, ?_⟩
        · simp [Period.allBuckets, hno, sumCounts_append, Bucket.add, Bucket.fresh, satAdd, maxCount]; omega
        · simp [Period.allBuckets, hno, sumCounts_append, Bucket.add, Bucket.fresh, satAdd, maxCount]; omega
    · rename_i hge
      refine ⟨⟨hl, hk, fun _ => ⟨rfl, by simp; omega⟩⟩, ?_, ?_, ?_⟩
      · cases hp : p.other <;>
          simp [Period.stopTicks, Period.allBuckets, hp, sumTicks_append, Bucket.add, Bucket.fresh, BitVec.add_assoc]
      · cases hp : p.other <;>
          simp [Period.microTicks, Period.allBuckets, hp, sumTicks_append, Bucket.add, Bucket.fresh, BitVec.add_assoc]
      · simp only [Bool.or_eq_false_iff]
        rintro ⟨h1, h2⟩
        simp only [Bucket.overflows, Bool.or_eq_false_iff] at h2
        refine ⟨h1, ?_, ?_⟩
        · have := satAdd_of_not_over h2.1
          cases hp : p.other <;> simp only [hp, Option.getD_none, Option.getD_some, Bucket.fresh, Nat.zero_add] at this <;>
            simp [Period.allBuckets, hp, sumCounts_append, Bucket.add, this, Bucket.fresh, Nat.add_assoc]
        · have := satAdd_of_not_over h2.2
          cases hp : p.other <;> simp only [hp, Option.getD_none, Option.getD_some, Bucket.fresh, Nat.zero_add] at this <;>
            simp [Period.allBuckets, hp, sumCounts_append, Bucket.add, this, Bucket.fresh, Nat.add_assoc]

/-! ## Charges: the total of the eight classes, and the soundness of the period -/

/-- A change of a period that keeps all that soundness looks at. -/
theorem Period.sound_of_eq {p q : Period} (h : p.sound) (hr : q.runs = p.runs) (hb : q.buckets = p.buckets) (ho : q.other = p.other)
    (hu : q.otherUsed = p.otherUsed) (hs : q.classes.stopped = p.classes.stopped) (hp : q.classes.planned = p.classes.planned)
    (hc : q.classes.changeover = p.classes.changeover) (hv : q.classes.overrun = p.classes.overrun)
    (hsh : q.classes.shortStop = p.classes.shortStop) (hcs : q.carriedShort = p.carriedShort)
    (hso : q.stoppagesOpened = p.stoppagesOpened) (hms : q.microStops = p.microStops)
    (hcg : q.constraintGood = p.constraintGood) (hfg : q.finishedGood = p.finishedGood)
    (hsat : q.saturated = false → p.saturated = false) : q.sound := by
  obtain ⟨h1, h2, h3, h4⟩ := h
  refine ⟨by rw [hr]; exact h1, ?_, ?_, fun hq => ?_⟩
  · unfold Period.bucketsListed at *; rw [hb, ho, hu]; exact h2
  · unfold Period.ticksBalanced Period.stopTicks Period.microTicks Period.allBuckets at *
    rw [hb, ho, hs, hp, hc, hv, hsh, hcs]; exact h3
  · have := h4 (hsat hq)
    unfold Period.countsBalanced Period.runsBalanced Period.allBuckets at *
    rw [hb, ho, hr, hso, hms, hcg, hfg]; exact this

/-- Ticks for a class without buckets (an UNOBSERVED, PRODUCING or NOT_SCHEDULED stretch). -/
theorem Period.chargeStretch_sound {p : Period} (h : p.sound) (n : Tick) (c : TimeClass)
    (hc : c = .unobserved ∨ c = .producing ∨ c = .notScheduled) : (p.chargeStretch c n).sound := by
  rcases hc with rfl | rfl | rfl <;> exact Period.sound_of_eq h rfl rfl rfl rfl rfl rfl rfl rfl rfl rfl rfl rfl rfl rfl id

/-- Ticks for a class, and the same ticks for the stop ticks of a bucket (a stoppage or planned segment). -/
theorem Period.chargeBucketed_sound {p : Period} (h : p.sound) (r : Root) (n : Tick) (c : TimeClass)
    (hc : c = .stopped ∨ c = .planned ∨ c = .changeover ∨ c = .overrun) :
    ((p.chargeStretch c n).bucketCharge r (.segment n)).sound := by
  obtain ⟨h1, h2, h3, h4⟩ := h
  obtain ⟨f1, f2, f3, f4, f5, -, f7, f8, -⟩ := Period.bucketCharge_fields (p.chargeStretch c n) r (.segment n)
  obtain ⟨g1, g2, g3, g4⟩ := Period.bucketCharge_spec (p.chargeStretch c n) r (.segment n) h2 (by simp [BucketPart.segment])
    (by simp [BucketPart.segment])
  refine ⟨by rw [f5]; exact h1, g1, ?_, fun hs => ?_⟩
  · unfold Period.ticksBalanced
    rw [g2, g3, f1, f2]
    obtain ⟨t1, t2⟩ := h3
    have e1 : (p.chargeStretch c n).stopTicks = p.stopTicks := rfl
    have e2 : (p.chargeStretch c n).microTicks = p.microTicks := rfl
    rw [e1, e2, t1]
    constructor
    · rcases hc with rfl | rfl | rfl | rfl <;> simp only [Period.chargeStretch, ClassTotals.add, BucketPart.segment] <;> ac_rfl
    · rw [show (BucketPart.segment n).microTicks = 0#32 from rfl, BitVec.add_zero]
      rcases hc with rfl | rfl | rfl | rfl <;> exact t2
  · obtain ⟨s1, s2, s3⟩ := g4 hs
    have k := h4 s1
    refine ⟨⟨?_, ?_⟩, ?_⟩
    · rw [s2, f3]; exact k.1.1
    · rw [s3, f4]; exact k.1.2
    · unfold Period.runsBalanced; rw [f5, f7, f8]; exact k.2

theorem Period.chargeMicroStop_sound {p : Period} (h : p.sound) (r : Root) (n : Tick) : (p.chargeMicroStop r n).sound := by
  obtain ⟨h1, h2, ⟨t1, t2⟩, h4⟩ := h
  have hf := Period.bucketCharge_fields (p.chargeStretch .shortStop n) r (.microStop n)
  have hg := Period.bucketCharge_spec (p.chargeStretch .shortStop n) r (.microStop n) h2 (by simp [BucketPart.microStop])
    (by simp [BucketPart.microStop])
  unfold Period.chargeMicroStop
  generalize (p.chargeStretch .shortStop n).bucketCharge r (.microStop n) = q at hf hg
  obtain ⟨f1, f2, f3, f4, f5, -, f7, f8, -⟩ := hf
  obtain ⟨g1, g2, g3, g4⟩ := hg
  refine ⟨by rw [f5]; exact h1, g1, ⟨?_, ?_⟩, fun hs => ?_⟩
  · show q.stopTicks = q.classes.stopped + q.classes.planned + q.classes.changeover + q.classes.overrun
    rw [g2, f1]
    show p.stopTicks + 0#32 = _
    rw [BitVec.add_zero]; exact t1
  · show q.microTicks + q.carriedShort = q.classes.shortStop
    rw [g3, f1, f2]
    show p.microTicks + n + p.carriedShort = p.classes.shortStop + n
    rw [← t2]; ac_rfl
  · simp only [Bool.or_eq_false_iff] at hs
    obtain ⟨s1, s2, s3⟩ := g4 hs.1
    have k := h4 s1
    refine ⟨⟨?_, ?_⟩, ?_⟩
    · show sumCounts (q.allBuckets.map (·.stoppages)) = q.stoppagesOpened
      rw [s2, f3]; exact k.1.1
    · show sumCounts (q.allBuckets.map (·.microStops)) = satAdd q.microStops 1
      rw [s3, satAdd_of_not_over hs.2, f4]
      exact congrArg (· + 1) k.1.2
    · unfold Period.runsBalanced; rw [f5, f7, f8]; exact k.2

theorem Period.chargeCarriedShort_sound {p : Period} (h : p.sound) (n : Tick) : (p.chargeCarriedShort n).sound := by
  obtain ⟨h1, h2, h3, h4⟩ := h
  refine ⟨h1, h2, ⟨h3.1, ?_⟩, h4⟩
  show p.microTicks + (p.carriedShort + n) = p.classes.shortStop + n
  rw [← h3.2]; ac_rfl

theorem Period.chargePromotion_sound {p : Period} (h : p.sound) (r : Root) : (p.chargePromotion r).sound := by
  obtain ⟨h1, h2, ⟨t1, t2⟩, h4⟩ := h
  have hf := Period.bucketCharge_fields p r .promotion
  have hg := Period.bucketCharge_spec p r .promotion h2 (by simp [BucketPart.promotion]) (by simp [BucketPart.promotion])
  unfold Period.chargePromotion
  generalize p.bucketCharge r .promotion = q at hf hg
  obtain ⟨f1, f2, f3, f4, f5, -, f7, f8, -⟩ := hf
  obtain ⟨g1, g2, g3, g4⟩ := hg
  refine ⟨by rw [f5]; exact h1, g1, ⟨?_, ?_⟩, fun hs => ?_⟩
  · show q.stopTicks = q.classes.stopped + q.classes.planned + q.classes.changeover + q.classes.overrun
    rw [g2, f1]
    show p.stopTicks + 0#32 = _
    rw [BitVec.add_zero]; exact t1
  · show q.microTicks + q.carriedShort = q.classes.shortStop
    rw [g3, f1, f2]
    show p.microTicks + 0#32 + p.carriedShort = _
    rw [BitVec.add_zero]; exact t2
  · simp only [Bool.or_eq_false_iff] at hs
    obtain ⟨s1, s2, s3⟩ := g4 hs.1
    have k := h4 s1
    refine ⟨⟨?_, ?_⟩, ?_⟩
    · show sumCounts (q.allBuckets.map (·.stoppages)) = satAdd q.stoppagesOpened 1
      rw [s2, satAdd_of_not_over hs.2, f3]
      exact congrArg (· + 1) k.1.1
    · show sumCounts (q.allBuckets.map (·.microStops)) = q.microStops
      rw [s3, f4]; exact k.1.2
    · unfold Period.runsBalanced; rw [f5, f7, f8]; exact k.2

/-! ## The charge of a condition (R96) -/

/-- Charging a condition adds the time from its frontier to the tick. -/
theorem Live.total_chargeTo (lv : Live) (t : Tick) :
    (lv.chargeTo t).period.classes.total = lv.period.classes.total + (t - lv.frontier)
    ∧ (lv.chargeTo t).period.start = lv.period.start ∧ (lv.chargeTo t).condition = lv.condition
    ∧ (lv.chargeTo t).lastChange = lv.lastChange ∧ (lv.chargeTo t).rate = lv.rate := by
  unfold Live.chargeTo Live.frontier Period.chargeTo
  cases lv.condition <;>
    simp [Period.chargePlanned, Period.chargeSegment, Period.chargeCarriedShort, Period.chargeStretch, Period.bucketCharge_fields]

theorem Period.chargeTo_sound {p : Period} (h : p.sound) (c : Condition) (a t : Tick) : (p.chargeTo c a t).sound := by
  cases c
  · exact Period.chargeStretch_sound h _ _ (by simp)
  · exact Period.chargeBucketed_sound h _ _ _ (by simp)
  · exact Period.chargeBucketed_sound h _ _ _ (by simp)
  · exact Period.chargeBucketed_sound h _ _ _ (by simp)
  · exact Period.chargeStretch_sound h _ _ (by simp)
  · exact Period.chargeStretch_sound h _ _ (by simp)
  · exact Period.chargeCarriedShort_sound h _
  · exact Period.chargeBucketed_sound h _ _ _ (by simp)
  · exact Period.chargeBucketed_sound h _ _ _ (by simp)

/-! ## The charges of the other two blocks: no class, no bucket -/

/-- A change that reaches neither the classes nor the buckets nor the start, and no run. -/
def Period.Beside (p q : Period) : Prop := q.classes = p.classes ∧ q.start = p.start ∧ (p.sound → q.sound)

theorem Period.Beside.refl (p : Period) : p.Beside p := ⟨rfl, rfl, id⟩

theorem Period.Beside.trans {p q r : Period} (h : p.Beside q) (k : q.Beside r) : p.Beside r :=
  ⟨k.1.trans h.1, k.2.1.trans h.2.1, fun x => k.2.2 (h.2.2 x)⟩

theorem Period.chargeSlow_beside (p : Period) (n : Tick) : p.Beside (p.chargeSlow n) :=
  ⟨rfl, rfl, fun h => Period.sound_of_eq h rfl rfl rfl rfl rfl rfl rfl rfl rfl rfl rfl rfl rfl rfl id⟩

theorem Period.chargeSlowTo_beside (p : Period) (o : Option Tick) (t : Tick) : p.Beside (p.chargeSlowTo o t) := by
  cases o
  · exact .refl p
  · exact p.chargeSlow_beside _

theorem Period.boundSlow_beside (p : Period) : p.Beside p.boundSlow :=
  ⟨rfl, rfl, fun h => Period.sound_of_eq h rfl rfl rfl rfl rfl rfl rfl rfl rfl rfl rfl rfl rfl rfl id⟩

/-- After the bound the slow ticks are within the PRODUCING total. -/
theorem Period.boundSlow_le (p : Period) : p.boundSlow.slowTicks.toNat ≤ p.boundSlow.classes.producing.toNat := by
  show (if p.classes.producing.toNat < p.slowTicks.toNat then p.classes.producing else p.slowTicks).toNat ≤ p.classes.producing.toNat
  split
  · exact Nat.le_refl _
  · omega

/-- Slow ticks within the PRODUCING total are left alone. -/
theorem Period.boundSlow_of_le {p : Period} (h : p.slowTicks.toNat ≤ p.classes.producing.toNat) : p.boundSlow = p := by
  unfold Period.boundSlow
  rw [if_neg (by omega)]

theorem Period.chargeWindow_beside (p : Period) (e a : Nat) : p.Beside (p.chargeWindow e a) :=
  ⟨rfl, rfl, fun h => Period.sound_of_eq h rfl rfl rfl rfl rfl rfl rfl rfl rfl rfl rfl rfl rfl rfl
    (by simp only [Period.chargeWindow, Bool.or_eq_false_iff]; exact fun x => x.1.1)⟩

theorem Period.updEntry_beside (p : Period) (n : Nat) (f : StationEntry → StationEntry) : p.Beside (p.updEntry n f) :=
  ⟨rfl, rfl, fun h => Period.sound_of_eq h rfl rfl rfl rfl rfl rfl rfl rfl rfl rfl rfl rfl rfl rfl id⟩

theorem Period.flagOver_beside (p : Period) (o : Bool) : p.Beside (p.flagOver o) :=
  ⟨rfl, rfl, fun h => Period.sound_of_eq h rfl rfl rfl rfl rfl rfl rfl rfl rfl rfl rfl rfl rfl rfl
    (by simp only [Period.flagOver, Bool.or_eq_false_iff]; exact fun x => x.1)⟩

theorem Period.countDiscontinuity_beside (p : Period) (n : Nat) : p.Beside (p.countDiscontinuity n) :=
  (p.flagOver_beside _).trans (Period.updEntry_beside _ _ _)

theorem Period.creditInfeed_beside (p : Period) (n d : Nat) : p.Beside (p.creditInfeed n d) :=
  (p.flagOver_beside _).trans (Period.updEntry_beside _ _ _)

theorem Period.creditOutfeed_beside (p : Period) (n d : Nat) : p.Beside (p.creditOutfeed n d) :=
  (p.flagOver_beside _).trans (Period.updEntry_beside _ _ _)

theorem Period.creditReject_beside (p : Period) (n d : Nat) : p.Beside (p.creditReject n d) :=
  (p.flagOver_beside _).trans (Period.updEntry_beside _ _ _)

/-- Changing the last run changes a sum over the runs by what it changes in the last run. -/
theorem sum_modifyLast (f : ProductRun → ProductRun) (g : ProductRun → Nat) (d : Nat) (dflt : ProductRun) (rs : List ProductRun)
    (hne : 1 ≤ rs.length) (hf : g (f (rs.getLastD dflt)) = g (rs.getLastD dflt) + d) :
    sumCounts ((modifyLast f rs).map g) = sumCounts (rs.map g) + d := by
  induction rs with
  | nil => simp at hne
  | cons a as ih =>
    cases as with
    | nil => simpa [modifyLast] using hf
    | cons b bs =>
      have := ih (by simp) (by simpa using hf)
      simp only [modifyLast, List.map_cons, sumCounts_cons] at *
      omega

theorem length_modifyLast {α : Type} (f : α → α) (as : List α) : (modifyLast f as).length = as.length := by
  induction as with
  | nil => rfl
  | cons a as ih =>
    cases as with
    | nil => rfl
    | cons b bs => simp only [modifyLast, List.length_cons] at *; omega

theorem map_modifyLast {α β : Type} (f : α → α) (g : α → β) (hf : ∀ a, g (f a) = g a) (as : List α) :
    (modifyLast f as).map g = as.map g := by
  induction as with
  | nil => rfl
  | cons a as ih =>
    cases as with
    | nil => simp [modifyLast, hf]
    | cons b bs => simp only [modifyLast, List.map_cons] at *; rw [ih]

theorem Period.creditConstraint_beside (p : Period) (d : Nat) : p.Beside (p.creditConstraint d) := by
  refine ⟨rfl, rfl, fun ⟨h1, h2, h3, h4⟩ => ⟨by simpa [Period.creditConstraint, length_modifyLast] using h1, h2, h3, fun hs => ?_⟩⟩
  simp only [Period.creditConstraint, Bool.or_eq_false_iff] at hs
  obtain ⟨k1, k2, k3⟩ := h4 hs.1.1
  refine ⟨k1, ?_, ?_⟩
  · simp only [Period.creditConstraint]
    rw [satAdd_of_not_over hs.1.2, ← k2]
    exact sum_modifyLast _ _ d _ _ h1.1 (satAdd_of_not_over hs.2)
  · simp only [Period.creditConstraint]
    rw [map_modifyLast _ _ (by intro; rfl)]
    exact k3

theorem Period.creditFinish_beside (p : Period) (d : Nat) : p.Beside (p.creditFinish d) := by
  refine ⟨rfl, rfl, fun ⟨h1, h2, h3, h4⟩ => ⟨by simpa [Period.creditFinish, length_modifyLast] using h1, h2, h3, fun hs => ?_⟩⟩
  simp only [Period.creditFinish, Bool.or_eq_false_iff] at hs
  obtain ⟨k1, k2, k3⟩ := h4 hs.1.1
  refine ⟨k1, ?_, ?_⟩
  · simp only [Period.creditFinish]
    rw [map_modifyLast _ _ (by intro; rfl)]
    exact k2
  · simp only [Period.creditFinish]
    rw [satAdd_of_not_over hs.1.2, ← k3]
    exact sum_modifyLast _ _ d _ _ h1.1 (satAdd_of_not_over hs.2)

theorem Period.chargeStation_beside (p : Period) (t : Tick) (r : Station) : p.Beside (p.chargeStation t r) := by
  unfold Period.chargeStation
  split
  · cases r.category
    · exact p.updEntry_beside _ _
    · exact p.updEntry_beside _ _
    · exact .refl p
  · exact .refl p

theorem Period.chargeStations_beside (t : Tick) (rs : List Station) (p : Period) : p.Beside (p.chargeStations t rs) := by
  unfold Period.chargeStations
  induction rs generalizing p with
  | nil => exact .refl p
  | cons r rs ih => exact (p.chargeStation_beside t r).trans (ih _)

/-! ## Opening and closing -/

/-- A period that opens is sound (R89, R90). -/
theorem Period.opened_sound (l : Fin 8) (n : BitVec 32) (t : Tick) (pl : Option PlantTime) (a b c : Bool) (pr : Nat)
    (rs : List Station) : (Period.opened l n t pl a b c pr rs).sound := by
  refine ⟨by simp [Period.opened], ⟨by simp [Period.opened], by simp [Period.opened], by simp [Period.opened]⟩, ⟨rfl, rfl⟩,
    fun _ => ⟨⟨rfl, rfl⟩, ⟨rfl, rfl⟩⟩⟩

/-- The settled period of a sound line makes a sound record (R99, R105, R112). -/
theorem Live.freeze_sound {lv : Live} (h : lv.sound) (t : Tick) (rs : List Station) (pl : Option PlantTime) (why : CloseReason) :
    (lv.freeze (lv.settled t rs) t pl why).sound := by
  have hb := Period.chargeStations_beside t rs lv.period
  let lv1 : Live := { lv with period := lv.period.chargeStations t rs }
  have hs : lv1.period.sound := hb.2.2 h.2
  have ht := lv1.total_chargeTo t
  have hc := (Period.chargeSlowTo_beside (lv1.chargeTo t).period lv.rate.slowStart t).trans (Period.boundSlow_beside _)
  refine ⟨?_, hc.2.2 (Period.chargeTo_sound hs lv.condition lv.lastChange t), Period.boundSlow_le _⟩
  show (Period.chargeSlowTo (lv1.chargeTo t).period lv.rate.slowStart t).boundSlow.classes.total
    = t - (Period.chargeSlowTo (lv1.chargeTo t).period lv.rate.slowStart t).boundSlow.start
  rw [hc.1, hc.2.1, ht.1, ht.2.1]
  show (lv.period.chargeStations t rs).classes.total + (t - lv.frontier) = t - (lv.period.chargeStations t rs).start
  rw [hb.1, hb.2.1, h.1]
  bv_omega

/-- Every frontier instant of a carried condition stands at the tick (R114, R96). -/
theorem Condition.frontier_carry (lv : Live) (t : Tick) : { lv with condition := lv.condition.carry t, lastChange := t }.frontier = t := by
  unfold Live.frontier Condition.carry
  cases lv.condition <;> rfl

end Sys2Proof.Machine
end

