-- ==== Sys2Proof/Laws/State.lean ====
section
/-! SUPPORT. What each named update leaves as it was: one lemma for each update and each field it does not write. -/

namespace Sys2Proof.Machine

/-! ## setLine -/

section
variable (s : State) (l : Fin 8) (x : Option Line)

@[simp] theorem State.setLine_pending : (s.setLine l x).pending = s.pending := rfl
@[simp] theorem State.setLine_resetPhase : (s.setLine l x).resetPhase = s.resetPhase := rfl
@[simp] theorem State.setLine_partState : (s.setLine l x).partState = s.partState := rfl
@[simp] theorem State.setLine_host : (s.setLine l x).host = s.host := rfl
@[simp] theorem State.setLine_runClock : (s.setLine l x).runClock = s.runClock := rfl
@[simp] theorem State.setLine_plant : (s.setLine l x).plant = s.plant := rfl
@[simp] theorem State.setLine_triggers : (s.setLine l x).triggers = s.triggers := rfl
@[simp] theorem State.setLine_lastStoppage : (s.setLine l x).lastStoppage = s.lastStoppage := rfl
@[simp] theorem State.setLine_periodCounter : (s.setLine l x).periodCounter = s.periodCounter := rfl
@[simp] theorem State.setLine_store : (s.setLine l x).store = s.store := rfl
@[simp] theorem State.setLine_snapshot : (s.setLine l x).snapshot = s.snapshot := rfl
@[simp] theorem State.setLine_stations : (s.setLine l x).stations = s.stations := rfl
@[simp] theorem State.setLine_causeMap : (s.setLine l x).causeMap = s.causeMap := rfl
@[simp] theorem State.setLine_links : (s.setLine l x).links = s.links := rfl
@[simp] theorem State.setLine_journal : (s.setLine l x).journal = s.journal := rfl
@[simp] theorem State.setLine_attention : (s.setLine l x).attention = s.attention := rfl
@[simp] theorem State.setLine_freeDraws : (s.setLine l x).freeDraws = s.freeDraws := rfl

end

/-! ## updLine -/

section
variable (s : State) (l : Fin 8) (f : Line → Line)

@[simp] theorem State.updLine_pending : (s.updLine l f).pending = s.pending := rfl
@[simp] theorem State.updLine_resetPhase : (s.updLine l f).resetPhase = s.resetPhase := rfl
@[simp] theorem State.updLine_partState : (s.updLine l f).partState = s.partState := rfl
@[simp] theorem State.updLine_host : (s.updLine l f).host = s.host := rfl
@[simp] theorem State.updLine_runClock : (s.updLine l f).runClock = s.runClock := rfl
@[simp] theorem State.updLine_plant : (s.updLine l f).plant = s.plant := rfl
@[simp] theorem State.updLine_triggers : (s.updLine l f).triggers = s.triggers := rfl
@[simp] theorem State.updLine_lastStoppage : (s.updLine l f).lastStoppage = s.lastStoppage := rfl
@[simp] theorem State.updLine_periodCounter : (s.updLine l f).periodCounter = s.periodCounter := rfl
@[simp] theorem State.updLine_store : (s.updLine l f).store = s.store := rfl
@[simp] theorem State.updLine_snapshot : (s.updLine l f).snapshot = s.snapshot := rfl
@[simp] theorem State.updLine_stations : (s.updLine l f).stations = s.stations := rfl
@[simp] theorem State.updLine_causeMap : (s.updLine l f).causeMap = s.causeMap := rfl
@[simp] theorem State.updLine_links : (s.updLine l f).links = s.links := rfl
@[simp] theorem State.updLine_journal : (s.updLine l f).journal = s.journal := rfl
@[simp] theorem State.updLine_attention : (s.updLine l f).attention = s.attention := rfl
@[simp] theorem State.updLine_freeDraws : (s.updLine l f).freeDraws = s.freeDraws := rfl

end

/-! ## updLive -/

section
variable (s : State) (l : Fin 8) (f : Live → Live)

@[simp] theorem State.updLive_pending : (s.updLive l f).pending = s.pending := rfl
@[simp] theorem State.updLive_resetPhase : (s.updLive l f).resetPhase = s.resetPhase := rfl
@[simp] theorem State.updLive_partState : (s.updLive l f).partState = s.partState := rfl
@[simp] theorem State.updLive_host : (s.updLive l f).host = s.host := rfl
@[simp] theorem State.updLive_runClock : (s.updLive l f).runClock = s.runClock := rfl
@[simp] theorem State.updLive_plant : (s.updLive l f).plant = s.plant := rfl
@[simp] theorem State.updLive_triggers : (s.updLive l f).triggers = s.triggers := rfl
@[simp] theorem State.updLive_lastStoppage : (s.updLive l f).lastStoppage = s.lastStoppage := rfl
@[simp] theorem State.updLive_periodCounter : (s.updLive l f).periodCounter = s.periodCounter := rfl
@[simp] theorem State.updLive_store : (s.updLive l f).store = s.store := rfl
@[simp] theorem State.updLive_snapshot : (s.updLive l f).snapshot = s.snapshot := rfl
@[simp] theorem State.updLive_stations : (s.updLive l f).stations = s.stations := rfl
@[simp] theorem State.updLive_causeMap : (s.updLive l f).causeMap = s.causeMap := rfl
@[simp] theorem State.updLive_links : (s.updLive l f).links = s.links := rfl
@[simp] theorem State.updLive_journal : (s.updLive l f).journal = s.journal := rfl
@[simp] theorem State.updLive_attention : (s.updLive l f).attention = s.attention := rfl
@[simp] theorem State.updLive_freeDraws : (s.updLive l f).freeDraws = s.freeDraws := rfl

end

/-! ## updStation -/

section
variable (s : State) (n : Nat) (f : Station → Station)

@[simp] theorem State.updStation_pending : (s.updStation n f).pending = s.pending := rfl
@[simp] theorem State.updStation_resetPhase : (s.updStation n f).resetPhase = s.resetPhase := rfl
@[simp] theorem State.updStation_partState : (s.updStation n f).partState = s.partState := rfl
@[simp] theorem State.updStation_host : (s.updStation n f).host = s.host := rfl
@[simp] theorem State.updStation_runClock : (s.updStation n f).runClock = s.runClock := rfl
@[simp] theorem State.updStation_plant : (s.updStation n f).plant = s.plant := rfl
@[simp] theorem State.updStation_triggers : (s.updStation n f).triggers = s.triggers := rfl
@[simp] theorem State.updStation_lines : (s.updStation n f).lines = s.lines := rfl
@[simp] theorem State.updStation_lastStoppage : (s.updStation n f).lastStoppage = s.lastStoppage := rfl
@[simp] theorem State.updStation_periodCounter : (s.updStation n f).periodCounter = s.periodCounter := rfl
@[simp] theorem State.updStation_store : (s.updStation n f).store = s.store := rfl
@[simp] theorem State.updStation_snapshot : (s.updStation n f).snapshot = s.snapshot := rfl
@[simp] theorem State.updStation_causeMap : (s.updStation n f).causeMap = s.causeMap := rfl
@[simp] theorem State.updStation_links : (s.updStation n f).links = s.links := rfl
@[simp] theorem State.updStation_journal : (s.updStation n f).journal = s.journal := rfl
@[simp] theorem State.updStation_attention : (s.updStation n f).attention = s.attention := rfl
@[simp] theorem State.updStation_freeDraws : (s.updStation n f).freeDraws = s.freeDraws := rfl

end

/-! ## updStationsOf -/

section
variable (s : State) (l : Fin 8) (f : Station → Station)

@[simp] theorem State.updStationsOf_pending : (s.updStationsOf l f).pending = s.pending := rfl
@[simp] theorem State.updStationsOf_resetPhase : (s.updStationsOf l f).resetPhase = s.resetPhase := rfl
@[simp] theorem State.updStationsOf_partState : (s.updStationsOf l f).partState = s.partState := rfl
@[simp] theorem State.updStationsOf_host : (s.updStationsOf l f).host = s.host := rfl
@[simp] theorem State.updStationsOf_runClock : (s.updStationsOf l f).runClock = s.runClock := rfl
@[simp] theorem State.updStationsOf_plant : (s.updStationsOf l f).plant = s.plant := rfl
@[simp] theorem State.updStationsOf_triggers : (s.updStationsOf l f).triggers = s.triggers := rfl
@[simp] theorem State.updStationsOf_lines : (s.updStationsOf l f).lines = s.lines := rfl
@[simp] theorem State.updStationsOf_lastStoppage : (s.updStationsOf l f).lastStoppage = s.lastStoppage := rfl
@[simp] theorem State.updStationsOf_periodCounter : (s.updStationsOf l f).periodCounter = s.periodCounter := rfl
@[simp] theorem State.updStationsOf_store : (s.updStationsOf l f).store = s.store := rfl
@[simp] theorem State.updStationsOf_snapshot : (s.updStationsOf l f).snapshot = s.snapshot := rfl
@[simp] theorem State.updStationsOf_causeMap : (s.updStationsOf l f).causeMap = s.causeMap := rfl
@[simp] theorem State.updStationsOf_links : (s.updStationsOf l f).links = s.links := rfl
@[simp] theorem State.updStationsOf_journal : (s.updStationsOf l f).journal = s.journal := rfl
@[simp] theorem State.updStationsOf_attention : (s.updStationsOf l f).attention = s.attention := rfl
@[simp] theorem State.updStationsOf_freeDraws : (s.updStationsOf l f).freeDraws = s.freeDraws := rfl

end

/-! ## restartAccruals -/

section
variable (s : State) (l : Fin 8) (t : Tick)

@[simp] theorem State.restartAccruals_pending : (s.restartAccruals l t).pending = s.pending := rfl
@[simp] theorem State.restartAccruals_resetPhase : (s.restartAccruals l t).resetPhase = s.resetPhase := rfl
@[simp] theorem State.restartAccruals_partState : (s.restartAccruals l t).partState = s.partState := rfl
@[simp] theorem State.restartAccruals_host : (s.restartAccruals l t).host = s.host := rfl
@[simp] theorem State.restartAccruals_runClock : (s.restartAccruals l t).runClock = s.runClock := rfl
@[simp] theorem State.restartAccruals_plant : (s.restartAccruals l t).plant = s.plant := rfl
@[simp] theorem State.restartAccruals_triggers : (s.restartAccruals l t).triggers = s.triggers := rfl
@[simp] theorem State.restartAccruals_lines : (s.restartAccruals l t).lines = s.lines := rfl
@[simp] theorem State.restartAccruals_lastStoppage : (s.restartAccruals l t).lastStoppage = s.lastStoppage := rfl
@[simp] theorem State.restartAccruals_periodCounter : (s.restartAccruals l t).periodCounter = s.periodCounter := rfl
@[simp] theorem State.restartAccruals_store : (s.restartAccruals l t).store = s.store := rfl
@[simp] theorem State.restartAccruals_snapshot : (s.restartAccruals l t).snapshot = s.snapshot := rfl
@[simp] theorem State.restartAccruals_causeMap : (s.restartAccruals l t).causeMap = s.causeMap := rfl
@[simp] theorem State.restartAccruals_links : (s.restartAccruals l t).links = s.links := rfl
@[simp] theorem State.restartAccruals_journal : (s.restartAccruals l t).journal = s.journal := rfl
@[simp] theorem State.restartAccruals_attention : (s.restartAccruals l t).attention = s.attention := rfl
@[simp] theorem State.restartAccruals_freeDraws : (s.restartAccruals l t).freeDraws = s.freeDraws := rfl

end

/-! ## updLink -/

section
variable (s : State) (k : Fin 4) (f : Link → Link)

@[simp] theorem State.updLink_pending : (s.updLink k f).pending = s.pending := rfl
@[simp] theorem State.updLink_resetPhase : (s.updLink k f).resetPhase = s.resetPhase := rfl
@[simp] theorem State.updLink_partState : (s.updLink k f).partState = s.partState := rfl
@[simp] theorem State.updLink_host : (s.updLink k f).host = s.host := rfl
@[simp] theorem State.updLink_runClock : (s.updLink k f).runClock = s.runClock := rfl
@[simp] theorem State.updLink_plant : (s.updLink k f).plant = s.plant := rfl
@[simp] theorem State.updLink_triggers : (s.updLink k f).triggers = s.triggers := rfl
@[simp] theorem State.updLink_lines : (s.updLink k f).lines = s.lines := rfl
@[simp] theorem State.updLink_lastStoppage : (s.updLink k f).lastStoppage = s.lastStoppage := rfl
@[simp] theorem State.updLink_periodCounter : (s.updLink k f).periodCounter = s.periodCounter := rfl
@[simp] theorem State.updLink_store : (s.updLink k f).store = s.store := rfl
@[simp] theorem State.updLink_snapshot : (s.updLink k f).snapshot = s.snapshot := rfl
@[simp] theorem State.updLink_stations : (s.updLink k f).stations = s.stations := rfl
@[simp] theorem State.updLink_causeMap : (s.updLink k f).causeMap = s.causeMap := rfl
@[simp] theorem State.updLink_journal : (s.updLink k f).journal = s.journal := rfl
@[simp] theorem State.updLink_attention : (s.updLink k f).attention = s.attention := rfl
@[simp] theorem State.updLink_freeDraws : (s.updLink k f).freeDraws = s.freeDraws := rfl

end

/-! ## setPhase -/

section
variable (s : State) (k : Fin 4) (p : SlotPhase)

@[simp] theorem State.setPhase_pending : (s.setPhase k p).pending = s.pending := rfl
@[simp] theorem State.setPhase_resetPhase : (s.setPhase k p).resetPhase = s.resetPhase := rfl
@[simp] theorem State.setPhase_partState : (s.setPhase k p).partState = s.partState := rfl
@[simp] theorem State.setPhase_host : (s.setPhase k p).host = s.host := rfl
@[simp] theorem State.setPhase_runClock : (s.setPhase k p).runClock = s.runClock := rfl
@[simp] theorem State.setPhase_plant : (s.setPhase k p).plant = s.plant := rfl
@[simp] theorem State.setPhase_triggers : (s.setPhase k p).triggers = s.triggers := rfl
@[simp] theorem State.setPhase_lines : (s.setPhase k p).lines = s.lines := rfl
@[simp] theorem State.setPhase_lastStoppage : (s.setPhase k p).lastStoppage = s.lastStoppage := rfl
@[simp] theorem State.setPhase_periodCounter : (s.setPhase k p).periodCounter = s.periodCounter := rfl
@[simp] theorem State.setPhase_store : (s.setPhase k p).store = s.store := rfl
@[simp] theorem State.setPhase_snapshot : (s.setPhase k p).snapshot = s.snapshot := rfl
@[simp] theorem State.setPhase_stations : (s.setPhase k p).stations = s.stations := rfl
@[simp] theorem State.setPhase_causeMap : (s.setPhase k p).causeMap = s.causeMap := rfl
@[simp] theorem State.setPhase_journal : (s.setPhase k p).journal = s.journal := rfl
@[simp] theorem State.setPhase_attention : (s.setPhase k p).attention = s.attention := rfl
@[simp] theorem State.setPhase_freeDraws : (s.setPhase k p).freeDraws = s.freeDraws := rfl

end

/-! ## markValid -/

section
variable (s : State) (k : Fin 4)

@[simp] theorem State.markValid_pending : (s.markValid k).pending = s.pending := rfl
@[simp] theorem State.markValid_resetPhase : (s.markValid k).resetPhase = s.resetPhase := rfl
@[simp] theorem State.markValid_partState : (s.markValid k).partState = s.partState := rfl
@[simp] theorem State.markValid_host : (s.markValid k).host = s.host := rfl
@[simp] theorem State.markValid_runClock : (s.markValid k).runClock = s.runClock := rfl
@[simp] theorem State.markValid_plant : (s.markValid k).plant = s.plant := rfl
@[simp] theorem State.markValid_triggers : (s.markValid k).triggers = s.triggers := rfl
@[simp] theorem State.markValid_lines : (s.markValid k).lines = s.lines := rfl
@[simp] theorem State.markValid_lastStoppage : (s.markValid k).lastStoppage = s.lastStoppage := rfl
@[simp] theorem State.markValid_periodCounter : (s.markValid k).periodCounter = s.periodCounter := rfl
@[simp] theorem State.markValid_store : (s.markValid k).store = s.store := rfl
@[simp] theorem State.markValid_snapshot : (s.markValid k).snapshot = s.snapshot := rfl
@[simp] theorem State.markValid_stations : (s.markValid k).stations = s.stations := rfl
@[simp] theorem State.markValid_causeMap : (s.markValid k).causeMap = s.causeMap := rfl
@[simp] theorem State.markValid_journal : (s.markValid k).journal = s.journal := rfl
@[simp] theorem State.markValid_attention : (s.markValid k).attention = s.attention := rfl
@[simp] theorem State.markValid_freeDraws : (s.markValid k).freeDraws = s.freeDraws := rfl

end

/-! ## beginRound -/

section
variable (s : State) (k : Fin 4)

@[simp] theorem State.beginRound_pending : (s.beginRound k).pending = s.pending := rfl
@[simp] theorem State.beginRound_resetPhase : (s.beginRound k).resetPhase = s.resetPhase := rfl
@[simp] theorem State.beginRound_partState : (s.beginRound k).partState = s.partState := rfl
@[simp] theorem State.beginRound_host : (s.beginRound k).host = s.host := rfl
@[simp] theorem State.beginRound_runClock : (s.beginRound k).runClock = s.runClock := rfl
@[simp] theorem State.beginRound_plant : (s.beginRound k).plant = s.plant := rfl
@[simp] theorem State.beginRound_triggers : (s.beginRound k).triggers = s.triggers := rfl
@[simp] theorem State.beginRound_lines : (s.beginRound k).lines = s.lines := rfl
@[simp] theorem State.beginRound_lastStoppage : (s.beginRound k).lastStoppage = s.lastStoppage := rfl
@[simp] theorem State.beginRound_periodCounter : (s.beginRound k).periodCounter = s.periodCounter := rfl
@[simp] theorem State.beginRound_store : (s.beginRound k).store = s.store := rfl
@[simp] theorem State.beginRound_snapshot : (s.beginRound k).snapshot = s.snapshot := rfl
@[simp] theorem State.beginRound_stations : (s.beginRound k).stations = s.stations := rfl
@[simp] theorem State.beginRound_causeMap : (s.beginRound k).causeMap = s.causeMap := rfl
@[simp] theorem State.beginRound_journal : (s.beginRound k).journal = s.journal := rfl
@[simp] theorem State.beginRound_attention : (s.beginRound k).attention = s.attention := rfl
@[simp] theorem State.beginRound_freeDraws : (s.beginRound k).freeDraws = s.freeDraws := rfl

end

/-! ## updTrigger -/

section
variable (s : State) (k : Fin 8) (f : Trigger → Trigger)

@[simp] theorem State.updTrigger_pending : (s.updTrigger k f).pending = s.pending := rfl
@[simp] theorem State.updTrigger_resetPhase : (s.updTrigger k f).resetPhase = s.resetPhase := rfl
@[simp] theorem State.updTrigger_partState : (s.updTrigger k f).partState = s.partState := rfl
@[simp] theorem State.updTrigger_host : (s.updTrigger k f).host = s.host := rfl
@[simp] theorem State.updTrigger_runClock : (s.updTrigger k f).runClock = s.runClock := rfl
@[simp] theorem State.updTrigger_plant : (s.updTrigger k f).plant = s.plant := rfl
@[simp] theorem State.updTrigger_lines : (s.updTrigger k f).lines = s.lines := rfl
@[simp] theorem State.updTrigger_lastStoppage : (s.updTrigger k f).lastStoppage = s.lastStoppage := rfl
@[simp] theorem State.updTrigger_periodCounter : (s.updTrigger k f).periodCounter = s.periodCounter := rfl
@[simp] theorem State.updTrigger_store : (s.updTrigger k f).store = s.store := rfl
@[simp] theorem State.updTrigger_snapshot : (s.updTrigger k f).snapshot = s.snapshot := rfl
@[simp] theorem State.updTrigger_stations : (s.updTrigger k f).stations = s.stations := rfl
@[simp] theorem State.updTrigger_causeMap : (s.updTrigger k f).causeMap = s.causeMap := rfl
@[simp] theorem State.updTrigger_links : (s.updTrigger k f).links = s.links := rfl
@[simp] theorem State.updTrigger_journal : (s.updTrigger k f).journal = s.journal := rfl
@[simp] theorem State.updTrigger_attention : (s.updTrigger k f).attention = s.attention := rfl
@[simp] theorem State.updTrigger_freeDraws : (s.updTrigger k f).freeDraws = s.freeDraws := rfl

end

/-! ## latch -/

section
variable (s : State) (f : AttentionFlag)

@[simp] theorem State.latch_pending : (s.latch f).pending = s.pending := rfl
@[simp] theorem State.latch_resetPhase : (s.latch f).resetPhase = s.resetPhase := rfl
@[simp] theorem State.latch_partState : (s.latch f).partState = s.partState := rfl
@[simp] theorem State.latch_host : (s.latch f).host = s.host := rfl
@[simp] theorem State.latch_runClock : (s.latch f).runClock = s.runClock := rfl
@[simp] theorem State.latch_plant : (s.latch f).plant = s.plant := rfl
@[simp] theorem State.latch_triggers : (s.latch f).triggers = s.triggers := rfl
@[simp] theorem State.latch_lines : (s.latch f).lines = s.lines := rfl
@[simp] theorem State.latch_lastStoppage : (s.latch f).lastStoppage = s.lastStoppage := rfl
@[simp] theorem State.latch_periodCounter : (s.latch f).periodCounter = s.periodCounter := rfl
@[simp] theorem State.latch_store : (s.latch f).store = s.store := rfl
@[simp] theorem State.latch_snapshot : (s.latch f).snapshot = s.snapshot := rfl
@[simp] theorem State.latch_stations : (s.latch f).stations = s.stations := rfl
@[simp] theorem State.latch_causeMap : (s.latch f).causeMap = s.causeMap := rfl
@[simp] theorem State.latch_links : (s.latch f).links = s.links := rfl
@[simp] theorem State.latch_journal : (s.latch f).journal = s.journal := rfl
@[simp] theorem State.latch_freeDraws : (s.latch f).freeDraws = s.freeDraws := rfl

end

/-! ## enqueue -/

section
variable (s : State) (o : Option (Fin 8)) (b : NoticeBody)

@[simp] theorem State.enqueue_pending : (s.enqueue o b).pending = s.pending := rfl
@[simp] theorem State.enqueue_resetPhase : (s.enqueue o b).resetPhase = s.resetPhase := rfl
@[simp] theorem State.enqueue_partState : (s.enqueue o b).partState = s.partState := rfl
@[simp] theorem State.enqueue_host : (s.enqueue o b).host = s.host := rfl
@[simp] theorem State.enqueue_runClock : (s.enqueue o b).runClock = s.runClock := rfl
@[simp] theorem State.enqueue_plant : (s.enqueue o b).plant = s.plant := rfl
@[simp] theorem State.enqueue_triggers : (s.enqueue o b).triggers = s.triggers := rfl
@[simp] theorem State.enqueue_lines : (s.enqueue o b).lines = s.lines := rfl
@[simp] theorem State.enqueue_lastStoppage : (s.enqueue o b).lastStoppage = s.lastStoppage := rfl
@[simp] theorem State.enqueue_periodCounter : (s.enqueue o b).periodCounter = s.periodCounter := rfl
@[simp] theorem State.enqueue_store : (s.enqueue o b).store = s.store := rfl
@[simp] theorem State.enqueue_snapshot : (s.enqueue o b).snapshot = s.snapshot := rfl
@[simp] theorem State.enqueue_stations : (s.enqueue o b).stations = s.stations := rfl
@[simp] theorem State.enqueue_causeMap : (s.enqueue o b).causeMap = s.causeMap := rfl
@[simp] theorem State.enqueue_links : (s.enqueue o b).links = s.links := rfl
@[simp] theorem State.enqueue_freeDraws : (s.enqueue o b).freeDraws = s.freeDraws := rfl

end

/-- A notice reaches the Journal and the Attention Unit only. -/
theorem State.notify_touches (s : State) (o : Option (Fin 8)) (b : NoticeBody) :
    s.notify o b = { s with journal := (s.notify o b).journal, attention := (s.notify o b).attention } := by
  unfold State.notify
  split
  · rfl
  · split <;> rfl

/-! ## notify -/

section
variable (s : State) (o : Option (Fin 8)) (b : NoticeBody)

@[simp] theorem State.notify_pending : (s.notify o b).pending = s.pending := (congrArg State.pending (State.notify_touches s o b)).trans rfl
@[simp] theorem State.notify_resetPhase : (s.notify o b).resetPhase = s.resetPhase := (congrArg State.resetPhase (State.notify_touches s o b)).trans rfl
@[simp] theorem State.notify_partState : (s.notify o b).partState = s.partState := (congrArg State.partState (State.notify_touches s o b)).trans rfl
@[simp] theorem State.notify_host : (s.notify o b).host = s.host := (congrArg State.host (State.notify_touches s o b)).trans rfl
@[simp] theorem State.notify_runClock : (s.notify o b).runClock = s.runClock := (congrArg State.runClock (State.notify_touches s o b)).trans rfl
@[simp] theorem State.notify_plant : (s.notify o b).plant = s.plant := (congrArg State.plant (State.notify_touches s o b)).trans rfl
@[simp] theorem State.notify_triggers : (s.notify o b).triggers = s.triggers := (congrArg State.triggers (State.notify_touches s o b)).trans rfl
@[simp] theorem State.notify_lines : (s.notify o b).lines = s.lines := (congrArg State.lines (State.notify_touches s o b)).trans rfl
@[simp] theorem State.notify_lastStoppage : (s.notify o b).lastStoppage = s.lastStoppage := (congrArg State.lastStoppage (State.notify_touches s o b)).trans rfl
@[simp] theorem State.notify_periodCounter : (s.notify o b).periodCounter = s.periodCounter := (congrArg State.periodCounter (State.notify_touches s o b)).trans rfl
@[simp] theorem State.notify_store : (s.notify o b).store = s.store := (congrArg State.store (State.notify_touches s o b)).trans rfl
@[simp] theorem State.notify_snapshot : (s.notify o b).snapshot = s.snapshot := (congrArg State.snapshot (State.notify_touches s o b)).trans rfl
@[simp] theorem State.notify_stations : (s.notify o b).stations = s.stations := (congrArg State.stations (State.notify_touches s o b)).trans rfl
@[simp] theorem State.notify_causeMap : (s.notify o b).causeMap = s.causeMap := (congrArg State.causeMap (State.notify_touches s o b)).trans rfl
@[simp] theorem State.notify_links : (s.notify o b).links = s.links := (congrArg State.links (State.notify_touches s o b)).trans rfl
@[simp] theorem State.notify_freeDraws : (s.notify o b).freeDraws = s.freeDraws := (congrArg State.freeDraws (State.notify_touches s o b)).trans rfl

end

/-! ## respond -/

section
variable (s : State) (k : Byte) (r : Reply)

@[simp] theorem State.respond_pending : (s.respond k r).pending = s.pending := rfl
@[simp] theorem State.respond_resetPhase : (s.respond k r).resetPhase = s.resetPhase := rfl
@[simp] theorem State.respond_partState : (s.respond k r).partState = s.partState := rfl
@[simp] theorem State.respond_runClock : (s.respond k r).runClock = s.runClock := rfl
@[simp] theorem State.respond_plant : (s.respond k r).plant = s.plant := rfl
@[simp] theorem State.respond_triggers : (s.respond k r).triggers = s.triggers := rfl
@[simp] theorem State.respond_lines : (s.respond k r).lines = s.lines := rfl
@[simp] theorem State.respond_lastStoppage : (s.respond k r).lastStoppage = s.lastStoppage := rfl
@[simp] theorem State.respond_periodCounter : (s.respond k r).periodCounter = s.periodCounter := rfl
@[simp] theorem State.respond_store : (s.respond k r).store = s.store := rfl
@[simp] theorem State.respond_snapshot : (s.respond k r).snapshot = s.snapshot := rfl
@[simp] theorem State.respond_stations : (s.respond k r).stations = s.stations := rfl
@[simp] theorem State.respond_causeMap : (s.respond k r).causeMap = s.causeMap := rfl
@[simp] theorem State.respond_links : (s.respond k r).links = s.links := rfl
@[simp] theorem State.respond_journal : (s.respond k r).journal = s.journal := rfl
@[simp] theorem State.respond_attention : (s.respond k r).attention = s.attention := rfl
@[simp] theorem State.respond_freeDraws : (s.respond k r).freeDraws = s.freeDraws := rfl

end

/-! ## place -/

section
variable (s : State) (l : Fin 8) (r : ClosedRecord)

@[simp] theorem State.place_pending : (s.place l r).pending = s.pending := by simp [State.place]
@[simp] theorem State.place_resetPhase : (s.place l r).resetPhase = s.resetPhase := by simp [State.place]
@[simp] theorem State.place_partState : (s.place l r).partState = s.partState := by simp [State.place]
@[simp] theorem State.place_host : (s.place l r).host = s.host := by simp [State.place]
@[simp] theorem State.place_runClock : (s.place l r).runClock = s.runClock := by simp [State.place]
@[simp] theorem State.place_plant : (s.place l r).plant = s.plant := by simp [State.place]
@[simp] theorem State.place_triggers : (s.place l r).triggers = s.triggers := by simp [State.place]
@[simp] theorem State.place_lines : (s.place l r).lines = s.lines := by simp [State.place]
@[simp] theorem State.place_lastStoppage : (s.place l r).lastStoppage = s.lastStoppage := by simp [State.place]
@[simp] theorem State.place_periodCounter : (s.place l r).periodCounter = s.periodCounter := by simp [State.place]
@[simp] theorem State.place_snapshot : (s.place l r).snapshot = s.snapshot := by simp [State.place]
@[simp] theorem State.place_stations : (s.place l r).stations = s.stations := by simp [State.place]
@[simp] theorem State.place_causeMap : (s.place l r).causeMap = s.causeMap := by simp [State.place]
@[simp] theorem State.place_links : (s.place l r).links = s.links := by simp [State.place]
@[simp] theorem State.place_freeDraws : (s.place l r).freeDraws = s.freeDraws := by simp [State.place]

end

/-! ## countUp -/

section
variable (s : State) (n : Nat)

@[simp] theorem State.countUp_pending : (s.countUp n).2.pending = s.pending := by unfold State.countUp; split <;> rfl
@[simp] theorem State.countUp_resetPhase : (s.countUp n).2.resetPhase = s.resetPhase := by unfold State.countUp; split <;> rfl
@[simp] theorem State.countUp_partState : (s.countUp n).2.partState = s.partState := by unfold State.countUp; split <;> rfl
@[simp] theorem State.countUp_host : (s.countUp n).2.host = s.host := by unfold State.countUp; split <;> rfl
@[simp] theorem State.countUp_runClock : (s.countUp n).2.runClock = s.runClock := by unfold State.countUp; split <;> rfl
@[simp] theorem State.countUp_plant : (s.countUp n).2.plant = s.plant := by unfold State.countUp; split <;> rfl
@[simp] theorem State.countUp_triggers : (s.countUp n).2.triggers = s.triggers := by unfold State.countUp; split <;> rfl
@[simp] theorem State.countUp_lines : (s.countUp n).2.lines = s.lines := by unfold State.countUp; split <;> rfl
@[simp] theorem State.countUp_lastStoppage : (s.countUp n).2.lastStoppage = s.lastStoppage := by unfold State.countUp; split <;> rfl
@[simp] theorem State.countUp_periodCounter : (s.countUp n).2.periodCounter = s.periodCounter := by unfold State.countUp; split <;> rfl
@[simp] theorem State.countUp_store : (s.countUp n).2.store = s.store := by unfold State.countUp; split <;> rfl
@[simp] theorem State.countUp_snapshot : (s.countUp n).2.snapshot = s.snapshot := by unfold State.countUp; split <;> rfl
@[simp] theorem State.countUp_stations : (s.countUp n).2.stations = s.stations := by unfold State.countUp; split <;> rfl
@[simp] theorem State.countUp_causeMap : (s.countUp n).2.causeMap = s.causeMap := by unfold State.countUp; split <;> rfl
@[simp] theorem State.countUp_links : (s.countUp n).2.links = s.links := by unfold State.countUp; split <;> rfl
@[simp] theorem State.countUp_journal : (s.countUp n).2.journal = s.journal := by unfold State.countUp; split <;> rfl
@[simp] theorem State.countUp_attention : (s.countUp n).2.attention = s.attention := by unfold State.countUp; split <;> rfl

end

/-! ## takePeriodNumber -/

section
variable (s : State) (l : Fin 8)

@[simp] theorem State.takePeriodNumber_pending : (s.takePeriodNumber l).2.pending = s.pending := by simp [State.takePeriodNumber]
@[simp] theorem State.takePeriodNumber_resetPhase : (s.takePeriodNumber l).2.resetPhase = s.resetPhase := by simp [State.takePeriodNumber]
@[simp] theorem State.takePeriodNumber_partState : (s.takePeriodNumber l).2.partState = s.partState := by simp [State.takePeriodNumber]
@[simp] theorem State.takePeriodNumber_host : (s.takePeriodNumber l).2.host = s.host := by simp [State.takePeriodNumber]
@[simp] theorem State.takePeriodNumber_runClock : (s.takePeriodNumber l).2.runClock = s.runClock := by simp [State.takePeriodNumber]
@[simp] theorem State.takePeriodNumber_plant : (s.takePeriodNumber l).2.plant = s.plant := by simp [State.takePeriodNumber]
@[simp] theorem State.takePeriodNumber_triggers : (s.takePeriodNumber l).2.triggers = s.triggers := by simp [State.takePeriodNumber]
@[simp] theorem State.takePeriodNumber_lines : (s.takePeriodNumber l).2.lines = s.lines := by simp [State.takePeriodNumber]
@[simp] theorem State.takePeriodNumber_lastStoppage : (s.takePeriodNumber l).2.lastStoppage = s.lastStoppage := by simp [State.takePeriodNumber]
@[simp] theorem State.takePeriodNumber_store : (s.takePeriodNumber l).2.store = s.store := by simp [State.takePeriodNumber]
@[simp] theorem State.takePeriodNumber_snapshot : (s.takePeriodNumber l).2.snapshot = s.snapshot := by simp [State.takePeriodNumber]
@[simp] theorem State.takePeriodNumber_stations : (s.takePeriodNumber l).2.stations = s.stations := by simp [State.takePeriodNumber]
@[simp] theorem State.takePeriodNumber_causeMap : (s.takePeriodNumber l).2.causeMap = s.causeMap := by simp [State.takePeriodNumber]
@[simp] theorem State.takePeriodNumber_links : (s.takePeriodNumber l).2.links = s.links := by simp [State.takePeriodNumber]
@[simp] theorem State.takePeriodNumber_journal : (s.takePeriodNumber l).2.journal = s.journal := by simp [State.takePeriodNumber]
@[simp] theorem State.takePeriodNumber_attention : (s.takePeriodNumber l).2.attention = s.attention := by simp [State.takePeriodNumber]

end

end Sys2Proof.Machine
end

