-- ==== Sys2Proof/Laws/Touch.lean ====
section
/-! SUPPORT. What the blocks can do to the state, said once: every operation of the Line Trackers, the Count and Rate Unit, the Tally Book, the
Station Table, the Field Link Controllers and the triggers is a sequence of the few changes below, within a scope. An invariant or a frame of
them all is one induction over these changes. -/

namespace Sys2Proof.Machine

/-- Which lines, links and triggers may change, and whether lines may enter or leave MONITORING. -/
structure Scope where
  line    : Fin 8 → Prop
  link    : Fin 4 → Prop
  trigger : Fin 8 → Prop
  part    : Prop

/-- One line only. -/
def Scope.ofLine (l : Fin 8) : Scope := { line := (· = l), link := fun _ => False, trigger := fun _ => False, part := False }

/-- Every line, in MONITORING. -/
def Scope.allLines : Scope := { line := fun _ => True, link := fun _ => False, trigger := fun _ => False, part := False }

/-- One link, and any line. -/
def Scope.ofLink (k : Fin 4) : Scope := { line := fun _ => True, link := (· = k), trigger := fun _ => False, part := False }

/-- One trigger, and any line. -/
def Scope.ofTrigger (k : Fin 8) : Scope := { line := fun _ => True, link := fun _ => False, trigger := (· = k), part := False }

/-- Everything that a Scope can allow. -/
def Scope.all : Scope := { line := fun _ => True, link := fun _ => True, trigger := fun _ => True, part := True }

/-- Everything but entry to MONITORING and leaving it. -/
def Scope.running : Scope := { line := fun _ => True, link := fun _ => True, trigger := fun _ => True, part := False }

/-- A scope within another. -/
def Scope.le (a b : Scope) : Prop :=
  (∀ l, a.line l → b.line l) ∧ (∀ k, a.link k → b.link k) ∧ (∀ k, a.trigger k → b.trigger k) ∧ (a.part → b.part)

/-- The configured fields of a record stay (R7). -/
def Station.sameConfig (r q : Station) : Prop :=
  q.number = r.number ∧ q.link = r.link ∧ q.address = r.address ∧ q.line = r.line ∧ q.position = r.position
    ∧ q.constraint = r.constraint ∧ q.finish = r.finish ∧ q.maxRate = r.maxRate ∧ q.bypassed = r.bypassed

/-- What may happen to a station record: its configured fields stay, and a record of a line out of scope stays whole. -/
def Station.follows (r : Station) (sc : Scope) (q : Station) : Prop := r.sameConfig q ∧ (¬sc.line r.line → q = r)

/-- What may happen to the station records: none is added or removed. -/
inductive StationsFollow (sc : Scope) : List Station → List Station → Prop
  | nil : StationsFollow sc [] []
  | cons {r q rs qs} : r.follows sc q → StationsFollow sc rs qs → StationsFollow sc (r :: rs) (q :: qs)

/-- What may happen to a defined line: its definition stays; its account stays sound. -/
def Line.follows (ln : Line) (sc : Scope) (ln' : Line) : Prop :=
  ln'.defn = ln.defn ∧ (sc.part ∨ ln'.live.isSome = ln.live.isSome)
    ∧ ∀ lv', ln'.live = some lv' → (∃ lv, ln.live = some lv ∧ (lv.sound → lv'.sound)) ∨ (sc.part ∧ lv'.sound)

/-- What may happen to a link: its settings stay; its counts stay sound. -/
def Link.follows (L L' : Link) : Prop :=
  L'.bitRate = L.bitRate ∧ L'.polarityMode = L.polarityMode ∧ L'.pace = L.pace ∧ L'.missThreshold = L.missThreshold
    ∧ L'.returnThreshold = L.returnThreshold ∧ (L.sound → L'.sound)

/-- What may happen to a trigger: its line set and repeat interval stay. -/
def Trigger.follows (t t' : Trigger) : Prop := t'.lines = t.lines ∧ t'.interval = t.interval

/-- The changes that the blocks make, and their sequences. -/
inductive Touch (sc : Scope) : State → State → Prop
  | refl (s) : Touch sc s s
  | trans {a b c} : Touch sc a b → Touch sc b c → Touch sc a c
  | note (s) (o : Option (Fin 8)) (n : NoticeBody) : Touch sc s (s.notify o n)
  | latch (s) (f : AttentionFlag) : f ≠ .notice → Touch sc s (s.latch f)
  | line (s) (l : Fin 8) (ln ln' : Line) : sc.line l → s.line? l = some ln → ln.follows sc ln' → Touch sc s (s.setLine l (some ln'))
  | stations (s) (xs : List Station) : StationsFollow sc s.stations xs → Touch sc s { s with stations := xs }
  | stoppage (s) (l : Fin 8) (v : BitVec 32) : sc.line l → Touch sc s { s with lastStoppage := s.lastStoppage.set l v }
  | counter (s) (l : Fin 8) (v : BitVec 32) : sc.line l → Touch sc s { s with periodCounter := s.periodCounter.set l v }
  | draw (s) : Touch sc s { s with freeDraws := s.freeDraws + 1 }
  | place (s) (l : Fin 8) (r : ClosedRecord) : sc.line l → (∀ lv, s.live? l = some lv → lv.sound → r.sound) → (s.live? l).isSome →
      Touch sc s { s with store := s.store.set l (placeIn s.store[l] r) }
  | link (s) (k : Fin 4) (L : Link) : sc.link k → (s.link k).follows L → Touch sc s { s with links := s.links.set k L }
  | trigger (s) (k : Fin 8) (t : Trigger) : sc.trigger k → (s.trigger k).follows t → Touch sc s { s with triggers := s.triggers.set k t }

/-! ## Scopes -/

theorem Scope.le_all (sc : Scope) : sc.le .all := ⟨fun _ _ => trivial, fun _ _ => trivial, fun _ _ => trivial, fun _ => trivial⟩

theorem Station.follows_mono {a b : Scope} (h : a.le b) {r q : Station} (hr : r.follows a q) : r.follows b q :=
  ⟨hr.1, fun hn => hr.2 fun hl => hn (h.1 _ hl)⟩

theorem StationsFollow.mono {a b : Scope} (h : a.le b) {rs qs : List Station} (hr : StationsFollow a rs qs) : StationsFollow b rs qs := by
  induction hr with
  | nil => exact .nil
  | cons hx _ ih => exact .cons (Station.follows_mono h hx) ih

theorem Line.follows_mono {a b : Scope} (h : a.le b) {x y : Line} (hr : x.follows a y) : x.follows b y :=
  ⟨hr.1, hr.2.1.imp (h.2.2.2 ·) id, fun lv' hl => (hr.2.2 lv' hl).imp id fun ⟨p, q⟩ => ⟨h.2.2.2 p, q⟩⟩

/-- What is done within a scope is done within a wider one. -/
theorem Touch.mono {a b : Scope} (h : a.le b) {s t : State} (ht : Touch a s t) : Touch b s t := by
  induction ht with
  | refl s => exact .refl s
  | trans _ _ ih1 ih2 => exact .trans ih1 ih2
  | note s o n => exact .note s o n
  | latch s f hf => exact .latch s f hf
  | line s l ln ln' hl hx hf => exact .line s l ln ln' (h.1 _ hl) hx (Line.follows_mono h hf)
  | stations s xs hx => exact .stations s xs (hx.mono h)
  | stoppage s l v hl => exact .stoppage s l v (h.1 _ hl)
  | counter s l v hl => exact .counter s l v (h.1 _ hl)
  | draw s => exact .draw s
  | place s l r hl hr hs => exact .place s l r (h.1 _ hl) hr hs
  | link s k L hk hL => exact .link s k L (h.2.1 _ hk) hL
  | trigger s k t hk hL => exact .trigger s k t (h.2.2.1 _ hk) hL

/-! ## The named updates as changes -/

section
variable {sc : Scope} {s : State}

theorem State.setLine_self (s : State) (l : Fin 8) (x : Option Line) (h : s.line? l = x) : s.setLine l x = s := by
  subst h
  unfold State.setLine State.line?
  have : s.lines.set l s.lines[l] = s.lines := by
    ext i hi
    by_cases e : l.val = i
    · subst e; simp
    · simp
  rw [this]

theorem Station.sameConfig.refl (r : Station) : r.sameConfig r := ⟨rfl, rfl, rfl, rfl, rfl, rfl, rfl, rfl, rfl⟩

theorem Line.follows_live {ln : Line} {lv lv' : Live} (h : ln.live = some lv) (hs : lv.sound → lv'.sound) :
    ln.follows sc { ln with live := some lv' } :=
  ⟨rfl, .inr (by simp [h]), fun x hx => .inl ⟨lv, h, by cases hx; exact hs⟩⟩

/-- A live line's live state changes, its account staying sound. -/
theorem Touch.updLive {l : Fin 8} {f : Live → Live} (hl : sc.line l)
    (h : ∀ ln lv, s.line? l = some ln → ln.live = some lv → lv.sound → (f lv).sound) : Touch sc s (s.updLive l f) := by
  unfold State.updLive State.updLine
  cases hx : s.line? l with
  | none => rw [Option.map_none, State.setLine_self s l none hx]; exact .refl s
  | some ln =>
    rw [Option.map_some]
    cases hv : ln.live with
    | none =>
      have : ({ ln with live := (none : Option Live).map f } : Line) = ln := by cases ln; simp_all
      rw [this, State.setLine_self s l _ hx]; exact .refl s
    | some lv => exact .line s l ln _ hl hx (Line.follows_live hv (h ln lv hx hv))

/-- A line changes otherwise than in its definition and live state. -/
theorem Touch.updLine {l : Fin 8} {f : Line → Line} (hl : sc.line l) (h : ∀ ln, s.line? l = some ln → ln.follows sc (f ln)) :
    Touch sc s (s.updLine l f) := by
  unfold State.updLine
  cases hx : s.line? l with
  | none => rw [Option.map_none, State.setLine_self s l none hx]; exact .refl s
  | some ln => exact .line s l ln _ hl hx (h ln hx)

/-- A line's updates compose. -/
theorem State.updLine_updLine (s : State) (l : Fin 8) (f g : Line → Line) : (s.updLine l f).updLine l g = s.updLine l fun x => g (f x) := by
  unfold State.updLine State.setLine State.line?
  simp [Function.comp_def]

/-- A line's live updates compose. -/
theorem State.updLive_updLive (s : State) (l : Fin 8) (f g : Live → Live) : (s.updLive l f).updLive l g = s.updLive l fun x => g (f x) := by
  unfold State.updLive
  rw [State.updLine_updLine]
  simp [Option.map_map, Function.comp_def]

/-- A notice and a line's update, in either order. -/
theorem State.notify_setLine (s : State) (o : Option (Fin 8)) (n : NoticeBody) (l : Fin 8) (x : Option Line) :
    (s.notify o n).setLine l x = (s.setLine l x).notify o n := by
  unfold State.notify State.setLine
  split
  · rfl
  · split <;> rfl

theorem State.notify_updLive (s : State) (o : Option (Fin 8)) (n : NoticeBody) (l : Fin 8) (f : Live → Live) :
    (s.notify o n).updLive l f = (s.updLive l f).notify o n := by
  unfold State.updLive State.updLine
  rw [State.notify_setLine]
  simp [State.line?]

/-- What is done on a live line. -/
theorem Touch.withLive {l : Fin 8} {k : Line → Live → State}
    (h : ∀ ln lv, s.line? l = some ln → ln.live = some lv → Touch sc s (k ln lv)) : Touch sc s (s.withLive l k) := by
  unfold State.withLive
  split
  · exact .refl s
  · rename_i ln hx
    split
    · exact .refl s
    · rename_i lv hv
      exact h ln lv hx hv

theorem StationsFollow.refl (rs : List Station) : StationsFollow sc rs rs := by
  induction rs with
  | nil => exact .nil
  | cons r rs ih => exact .cons ⟨.refl r, fun _ => rfl⟩ ih

theorem StationsFollow.modifyFirst {p : Station → Bool} {f : Station → Station} (rs : List Station)
    (h : ∀ r, rs.find? p = some r → r.follows sc (f r)) : StationsFollow sc rs (modifyFirst p f rs) := by
  induction rs with
  | nil => exact .nil
  | cons r rs ih =>
    unfold Sys2Proof.Machine.modifyFirst
    split
    · rename_i hp
      exact .cons (h r (by simp [hp])) (.refl rs)
    · rename_i hp
      exact .cons ⟨.refl r, fun _ => rfl⟩ (ih fun q hq => h q (by simp [hp, hq]))

theorem StationsFollow.map {f : Station → Station} (rs : List Station) (h : ∀ r : Station, r.follows sc (f r)) :
    StationsFollow sc rs (rs.map f) := by
  induction rs with
  | nil => exact .nil
  | cons r rs ih => exact .cons (h r) ih

/-- The record of a station number changes, but for its configured fields. -/
theorem Touch.updStation {n : Nat} {f : Station → Station} (h : ∀ r, s.station? n = some r → sc.line r.line ∧ r.sameConfig (f r)) :
    Touch sc s (s.updStation n f) :=
  .stations s _ (.modifyFirst _ fun r hr => ⟨(h r hr).2, fun hn => absurd (h r hr).1 hn⟩)

/-- Every record of a line changes, but for its configured fields. -/
theorem Touch.updStationsOf {l : Fin 8} {f : Station → Station} (hl : sc.line l) (h : ∀ r : Station, r.sameConfig (f r)) :
    Touch sc s (s.updStationsOf l f) := by
  refine .stations s _ (.map _ fun r => ?_)
  show r.follows sc (if r.line = l then f r else r)
  split
  · rename_i e; exact ⟨h r, fun hn => absurd (e ▸ hl) hn⟩
  · exact ⟨.refl r, fun _ => rfl⟩

theorem Touch.updLink {k : Fin 4} {f : Link → Link} (hk : sc.link k) (h : (s.link k).follows (f (s.link k))) :
    Touch sc s (s.updLink k f) := .link s k _ hk h

theorem Touch.updTrigger {k : Fin 8} {f : Trigger → Trigger} (hk : sc.trigger k) (h : (s.trigger k).follows (f (s.trigger k))) :
    Touch sc s (s.updTrigger k f) := .trigger s k _ hk h

/-- A count that is increased, or drawn (log 6, log 7). -/
theorem Touch.countUp (n : Nat) : Touch sc s (s.countUp n).2 := by
  unfold State.countUp
  split
  · exact .refl s
  · exact .draw s

theorem Touch.takePeriodNumber {l : Fin 8} (hl : sc.line l) : Touch sc s (s.takePeriodNumber l).2 :=
  .trans (.countUp _) (.counter _ l _ hl)

/-! ## One more change after others -/

variable {t : State}

theorem Touch.andNote (h : Touch sc s t) {o : Option (Fin 8)} {n : NoticeBody} : Touch sc s (t.notify o n) := .trans h (.note _ _ _)

theorem Touch.andLatch (h : Touch sc s t) {f : AttentionFlag} (hf : f ≠ .notice) : Touch sc s (t.latch f) := .trans h (.latch _ _ hf)

theorem Touch.andLive (h : Touch sc s t) {l : Fin 8} {f : Live → Live} (hl : sc.line l)
    (hf : ∀ ln lv, t.line? l = some ln → ln.live = some lv → lv.sound → (f lv).sound) : Touch sc s (t.updLive l f) :=
  .trans h (.updLive hl hf)

theorem Touch.andStation (h : Touch sc s t) {n : Nat} {f : Station → Station}
    (hf : ∀ r, t.station? n = some r → sc.line r.line ∧ r.sameConfig (f r)) : Touch sc s (t.updStation n f) :=
  .trans h (.updStation hf)

/-- Where a branch does nothing. -/
theorem Touch.ite {c : Prop} [Decidable c] {a b : State} (ha : c → Touch sc s a) (hb : ¬c → Touch sc s b) :
    Touch sc s (if c then a else b) := by
  split
  · exact ha ‹_›
  · exact hb ‹_›

end

end Sys2Proof.Machine
end

