-- ==== Sys2Proof/Laws/Blocks.lean ====
section
/-! SUPPORT. Each operation of the Count and Rate Unit, the Line Trackers, the Tally Book, the Period Store, the Station Table and the mode
machine changes the state by the changes of Laws/Touch.lean alone, on its own line. -/

namespace Sys2Proof.Machine

/-! ## Soundness of a live line under the Line Tracker's changes -/

/-- A change beside the classes: the condition, its frontier and the classes stay. -/
theorem Live.sound_beside {lv lv' : Live} (hc : lv'.condition = lv.condition) (hl : lv'.lastChange = lv.lastChange)
    (hp : lv.period.Beside lv'.period) (h : lv.sound) : lv'.sound := by
  refine ⟨?_, hp.2.2 h.2⟩
  have hf : lv'.frontier = lv.frontier := by unfold Live.frontier; rw [hc, hl]
  unfold Live.timeBalanced
  rw [hp.1, hp.2.1, hf]; exact h.1

/-- The time from the frontier to `t` has been added to the classes, and the new frontier is `t`. -/
theorem Live.sound_advance {lv lv' : Live} (t : Tick) (h : lv.sound) (hf : lv'.frontier = t)
    (ht : lv'.period.classes.total = lv.period.classes.total + (t - lv.frontier)) (hs : lv'.period.start = lv.period.start)
    (hp : lv.period.sound → lv'.period.sound) : lv'.sound := by
  refine ⟨?_, hp h.2⟩
  unfold Live.timeBalanced
  rw [ht, hs, hf, h.1]
  bv_omega

/-- The frontier has stayed. -/
theorem Live.sound_same {lv lv' : Live} (h : lv.sound) (hf : lv'.frontier = lv.frontier) (hp : lv'.period = lv.period) : lv'.sound := by
  refine ⟨?_, hp ▸ h.2⟩
  unfold Live.timeBalanced
  rw [hp, hf]; exact h.1

/-- A charge to a tick, and a condition whose frontier is that tick (R96). -/
theorem Live.chargeTo_become_sound {lv : Live} (h : lv.sound) (t : Tick) (c : Condition)
    (hf : ((lv.chargeTo t).become c t).frontier = t) : ((lv.chargeTo t).become c t).sound :=
  Live.sound_advance t h hf (lv.total_chargeTo t).1 (lv.total_chargeTo t).2.1 fun hp => Period.chargeTo_sound hp _ _ _

/-- With a nominal rate of 0 no value of slow is kept (R81, R88). -/
theorem LineDef.keepsSlow_of_no_rate {d : LineDef} (h : d.nominalRate = 0) (slow : Bool) : d.keepsSlow slow = false := by
  simp [LineDef.keepsSlow, h]

/-- With a nominal rate slow keeps its value (R84). -/
theorem LineDef.keepsSlow_of_rate {d : LineDef} (h : d.nominalRate ≠ 0) (slow : Bool) : d.keepsSlow slow = slow := by
  simp [LineDef.keepsSlow, h]

@[simp] theorem Live.startProducing_slow (lv : Live) (d : LineDef) (i : Tick) : (lv.startProducing d i).rate.slow = d.keepsSlow lv.rate.slow := rfl
@[simp] theorem Live.leaveProducing_slow (lv : Live) (d : LineDef) (now j : Tick) :
    (lv.leaveProducing d now j).rate.slow = d.keepsSlow lv.rate.slow := rfl
@[simp] theorem Live.leaveProducing_window (lv : Live) (d : LineDef) (now j : Tick) : (lv.leaveProducing d now j).rate.window = none := rfl
@[simp] theorem Live.startProducing_condition (lv : Live) (d : LineDef) (i : Tick) : (lv.startProducing d i).condition = lv.condition := rfl
@[simp] theorem Live.startProducing_lastChange (lv : Live) (d : LineDef) (i : Tick) : (lv.startProducing d i).lastChange = lv.lastChange := rfl
@[simp] theorem Live.startProducing_period (lv : Live) (d : LineDef) (i : Tick) : (lv.startProducing d i).period = lv.period := rfl

theorem Live.startProducing_sound {lv : Live} (h : lv.sound) (d : LineDef) (i : Tick) : (lv.startProducing d i).sound :=
  Live.sound_beside rfl rfl (.refl _) h

theorem Live.leaveProducing_beside (lv : Live) (d : LineDef) (now j : Tick) : lv.period.Beside (lv.leaveProducing d now j).period := by
  unfold Live.leaveProducing
  cases lv.rate.slowStart
  · exact .refl _
  · exact Period.chargeSlow_beside _ _

theorem Live.leaveProducing_sound {lv : Live} (h : lv.sound) (d : LineDef) (now j : Tick) : (lv.leaveProducing d now j).sound :=
  Live.sound_beside (lv := lv) rfl rfl (lv.leaveProducing_beside d now j) h

theorem Live.clearSlow_beside (lv : Live) (now : Tick) : lv.period.Beside (lv.clearSlow now).period := by
  unfold Live.clearSlow
  cases lv.rate.slowStart
  · exact .refl _
  · exact Period.chargeSlow_beside _ _

theorem Live.become_sound {lv : Live} {t : Tick} (h : lv.sound) (hf : lv.frontier = t) (c : Condition)
    (hc : (lv.become c t).frontier = t) : (lv.become c t).sound :=
  Live.sound_same h (hc.trans hf.symm) rfl

/-- The candidate resolves as a micro-stop at `x`, and the line goes on from `x` (R25). -/
theorem Live.resolve_become_sound {lv : Live} {c : Candidate} (h : lv.sound) (hc : lv.condition = .candidate c) (x : Tick)
    (d : Condition) (hd : d = .producing ∨ d = .unobserved) : ((lv.resolveCandidate c x).become d x).sound := by
  refine Live.sound_advance x h ?_ ?_ ?_ fun hp => Period.chargeMicroStop_sound hp _ _
  · rcases hd with rfl | rfl <;> rfl
  · have hf : lv.frontier = c.chargeStart := by unfold Live.frontier; rw [hc]
    rw [hf]
    simp only [Live.become, Live.resolveCandidate, Period.chargeMicroStop, Period.bucketCharge_fields]
    simp [Period.chargeStretch]
  · simp only [Live.become, Live.resolveCandidate, Period.chargeMicroStop, Period.bucketCharge_fields]
    rfl

/-- What a bucketed stretch adds to the classes together. -/
theorem Period.chargeSegment_fields (p : Period) (r : Root) (n : Tick) :
    (p.chargeSegment r n).classes.total = p.classes.total + n ∧ (p.chargeSegment r n).start = p.start := by
  have h := Period.bucketCharge_fields (p.chargeStretch .stopped n) r (.segment n)
  exact ⟨(congrArg ClassTotals.total h.1).trans (ClassTotals.total_add _ _ _), h.2.2.2.2.2.1⟩

/-- Two stretches that meet are one. -/
theorem tick_join (a b c d : Tick) : a + (c - b) + (d - c) = a + (d - b) := by bv_omega

/-- A stoppage's last segment ends at `finish`, and the line has produced since (R30). -/
theorem Live.endSegment_sound {lv : Live} {st : Stoppage} (h : lv.sound) (hf : lv.frontier = st.segmentStart) (finish now : Tick) :
    ({ lv with period := (lv.period.chargeSegment st.root (finish - st.segmentStart)).chargeStretch .producing (now - finish) }.become
      .producing now).sound := by
  have hs := lv.period.chargeSegment_fields st.root (finish - st.segmentStart)
  refine Live.sound_advance (lv := lv) now h rfl ?_ hs.2 fun hp =>
    Period.chargeStretch_sound (Period.chargeBucketed_sound hp _ _ _ (by simp)) _ _ (by simp)
  refine (ClassTotals.total_add _ _ _).trans ?_
  rw [hs.1, hf]
  exact tick_join _ _ _ _

section
variable {sc : Scope} {s : State} {l : Fin 8}

/-! ## Count and Rate Unit -/

theorem Touch.judgeSlow (hl : sc.line l) (d : LineDef) (w : Window) : Touch sc s (s.judgeSlow l d w) := by
  refine .withLive fun ln lv _ _ => ?_
  split
  · refine .andNote (.updLive hl fun _ lv _ _ h => ?_)
    exact Live.sound_beside (lv := lv) rfl rfl (.refl _) h
  · split
    · refine .andNote (.updLive hl fun _ lv _ _ h => ?_)
      refine Live.sound_beside (lv := lv) rfl rfl ?_ h
      cases lv.rate.slowStart
      · exact .refl _
      · exact Period.chargeSlow_beside _ _
    · exact .refl s

theorem Live.nextWindow_beside (lv : Live) (d : LineDef) (x : Tick) :
    (lv.nextWindow d x).condition = lv.condition ∧ (lv.nextWindow d x).lastChange = lv.lastChange
      ∧ lv.period.Beside (lv.nextWindow d x).period := by
  unfold Live.nextWindow
  split
  · exact ⟨rfl, rfl, lv.clearSlow_beside x⟩
  · exact ⟨rfl, rfl, .refl _⟩

theorem Touch.completeWindow (hl : sc.line l) : Touch sc s (s.completeWindow l) := by
  refine .withLive fun ln lv _ _ => ?_
  split
  · exact .refl s
  · split
    · refine .andLive (.trans (.updLive hl fun _ lv _ _ h => ?_) (.judgeSlow hl _ _)) hl fun _ lv _ _ h => ?_
      · exact Live.sound_beside (lv := lv) rfl rfl (Period.chargeWindow_beside _ _ _) h
      obtain ⟨h1, h2, h3⟩ := lv.nextWindow_beside ln.defn s.runClock
      exact Live.sound_beside h1 h2 h3 h
    · exact .refl s

theorem Touch.discontinuity {r : Station} (hl : sc.line r.line) (c : CounterName) (why : DiscontinuityReason) :
    Touch sc s (s.discontinuity r c why) := by
  refine .andNote (.updLive hl fun _ lv _ _ h => ?_)
  exact Live.sound_beside (lv := lv) rfl rfl (Period.countDiscontinuity_beside _ _) h

theorem Touch.judgeCounter {r : Station} (hl : sc.line r.line) (c : CounterName) (a d : Nat) (credit : Live → Live)
    (h : ∀ lv : Live, lv.sound → (credit lv).sound) : Touch sc s (s.judgeCounter r c a d credit) := by
  unfold State.judgeCounter
  split
  · exact .updLive hl fun _ lv _ _ hv => h lv hv
  · exact .discontinuity hl _ _

theorem Live.creditOutfeed_sound {lv : Live} (h : lv.sound) (r : Station) (d : Nat) : (lv.creditOutfeed r d).sound := by
  have h1 := Period.creditOutfeed_beside lv.period r.number d
  have h2 := h1.trans (Period.creditConstraint_beside _ d)
  cases hc : r.constraint <;> cases hf : r.finish <;> simp only [Live.creditOutfeed, hc, hf, Bool.false_eq_true, if_true, if_false]
  · exact Live.sound_beside (lv := lv) rfl rfl h1 h
  · exact Live.sound_beside (lv := lv) rfl rfl (h1.trans (Period.creditFinish_beside _ d)) h
  · exact Live.sound_beside (lv := lv) rfl rfl h2 h
  · exact Live.sound_beside (lv := lv) rfl rfl (h2.trans (Period.creditFinish_beside _ d)) h

theorem Station.sameConfig.trans {a b c : Station} (h : a.sameConfig b) (k : b.sameConfig c) : a.sameConfig c := by
  obtain ⟨h1, h2, h3, h4, h5, h6, h7, h8, h9⟩ := h
  obtain ⟨k1, k2, k3, k4, k5, k6, k7, k8, k9⟩ := k
  exact ⟨k1.trans h1, k2.trans h2, k3.trans h3, k4.trans h4, k5.trans h5, k6.trans h6, k7.trans h7, k8.trans h8, k9.trans h9⟩

/-- A station whose number is held on a line in scope. -/
def State.stationIn (s : State) (sc : Scope) (n : Nat) : Prop := ∀ r, s.station? n = some r → sc.line r.line

theorem StationsFollow.find {rs qs : List Station} (h : StationsFollow sc rs qs) (n : Nat) :
    (rs.find? (fun r => r.number == n) = none ∧ qs.find? (fun r => r.number == n) = none)
    ∨ ∃ r q, rs.find? (fun r => r.number == n) = some r ∧ qs.find? (fun r => r.number == n) = some q ∧ r.follows sc q := by
  induction h with
  | nil => exact .inl ⟨rfl, rfl⟩
  | @cons r q rs qs hrq _ ih =>
    have hn : q.number = r.number := hrq.1.1
    by_cases e : r.number = n
    · exact .inr ⟨r, q, by simp [e], by simp [hn, e], hrq⟩
    · simpa [e, hn] using ih

/-- A station keeps its configured fields through every change. -/
theorem Touch.station? {t : State} (h : Touch sc s t) (n : Nat) :
    (s.station? n = none ∧ t.station? n = none)
    ∨ ∃ r q, s.station? n = some r ∧ t.station? n = some q ∧ r.sameConfig q := by
  have same : ∀ s t : State, t.stations = s.stations → (s.station? n = none ∧ t.station? n = none)
      ∨ ∃ r q, s.station? n = some r ∧ t.station? n = some q ∧ r.sameConfig q := by
    intro s t e
    unfold State.station?
    rw [e]
    cases hx : s.stations.find? fun r => r.number == n with
    | none => exact .inl ⟨rfl, rfl⟩
    | some r => exact .inr ⟨r, r, rfl, rfl, .refl r⟩
  induction h with
  | refl s => exact same s s rfl
  | @trans a b c _ _ ih1 ih2 =>
    rcases ih1 with ⟨h1, h2⟩ | ⟨r, q, h1, h2, h3⟩
    · rcases ih2 with ⟨k1, k2⟩ | ⟨r', q', k1, k2, k3⟩
      · exact .inl ⟨h1, k2⟩
      · rw [h2] at k1; cases k1
    · rcases ih2 with ⟨k1, k2⟩ | ⟨r', q', k1, k2, k3⟩
      · rw [h2] at k1; cases k1
      · rw [h2] at k1; cases k1
        exact .inr ⟨r, q', h1, k2, h3.trans k3⟩
  | note s o b => exact same s _ (by simp)
  | latch s f _ => exact same s _ rfl
  | line s l ln ln' _ _ _ => exact same s _ rfl
  | stations s xs hx =>
    rcases hx.find n with h | ⟨r, q, h1, h2, h3⟩
    · exact .inl h
    · exact .inr ⟨r, q, h1, h2, h3.1⟩
  | stoppage s l v _ => exact same s _ rfl
  | counter s l v _ => exact same s _ rfl
  | draw s => exact same s _ rfl
  | place s l r _ _ _ => exact same s _ rfl
  | link s k L _ _ => exact same s _ rfl
  | trigger s k t _ _ => exact same s _ rfl

theorem Touch.stationIn {t : State} (h : Touch sc s t) {n : Nat} (hn : s.stationIn sc n) : t.stationIn sc n := by
  intro q hq
  rcases h.station? n with ⟨_, h2⟩ | ⟨r, q', h1, h2, h3⟩
  · rw [h2] at hq; cases hq
  · rw [h2] at hq; cases hq
    rw [h3.2.2.2.1]
    exact hn r h1

/-- A change of a station in scope, beside its configured fields, after others. -/
theorem Touch.andStationIn {t : State} (h : Touch sc s t) {n : Nat} (hn : s.stationIn sc n) {f : Station → Station}
    (hf : ∀ r : Station, r.sameConfig (f r)) : Touch sc s (t.updStation n f) :=
  h.andStation fun r hr => ⟨h.stationIn hn r hr, hf r⟩

theorem Touch.takeCounters {r : Station} (hl : sc.line r.line) (hn : s.stationIn sc r.number) (previous : Option Tick) (v : Counters)
    (restart : Bool) : Touch sc s (s.takeCounters r previous v restart) := by
  unfold State.takeCounters
  refine .andStationIn ?_ hn (fun q => ⟨rfl, rfl, rfl, rfl, rfl, rfl, rfl, rfl, rfl⟩)
  cases r.baselines with
  | none => exact .refl s
  | some b =>
    refine .ite (fun _ => .discontinuity hl _ _) fun _ => .ite (fun _ => .discontinuity hl _ _) fun _ => ?_
    refine .trans (.trans (.judgeCounter hl _ _ _ _ fun lv h => ?_) (.judgeCounter hl _ _ _ _ fun lv h => ?_))
      (.judgeCounter hl _ _ _ _ fun lv h => ?_)
    · exact Live.sound_beside (lv := lv) rfl rfl (Period.creditInfeed_beside _ _ _) h
    · exact Live.creditOutfeed_sound h _ _
    · exact Live.sound_beside (lv := lv) rfl rfl (Period.creditReject_beside _ _ _) h

theorem Touch.takeGapExpiry (n : Nat) (hn : s.stationIn sc n) : Touch sc s (s.takeGapExpiry n) := by
  unfold State.takeGapExpiry
  split
  · exact .refl s
  · split
    · exact .refl s
    · exact .ite (fun _ => .andStationIn (.refl s) hn fun q => ⟨rfl, rfl, rfl, rfl, rfl, rfl, rfl, rfl, rfl⟩) fun _ => .refl s

/-! ## Line Tracker -/

theorem Touch.closeStoppage (hl : sc.line l) (st : Stoppage) (why : StopReason) :
    Touch sc s ((s.closeStoppage l st why).updLive l (·.become .unobserved s.runClock)) := by
  unfold State.closeStoppage
  rw [State.notify_updLive, State.updLive_updLive]
  refine .andNote (.updLive hl fun _ lv _ _ h => ?_)
  exact Live.chargeTo_become_sound h _ _ rfl

theorem State.countUp_fields (s : State) (n : Nat) :
    (s.countUp n).2.lines = s.lines ∧ (s.countUp n).2.runClock = s.runClock := by
  unfold State.countUp; split <;> exact ⟨rfl, rfl⟩

theorem Touch.reattribute (hl : sc.line l) (st : Stoppage) (root : Root) : Touch sc s (s.reattribute l st root) := by
  refine .andNote (.trans (.countUp _) (.updLive hl fun _ lv _ _ h => ?_))
  exact Live.chargeTo_become_sound h _ _ rfl

theorem Touch.walkAgain (hl : sc.line l) : Touch sc s (s.walkAgain l) := by
  refine .withLive fun ln lv hx hv => ?_
  split <;> rename_i hc
  · refine .ite (fun _ => .refl s) fun _ => .updLive hl fun ln' lv' hx' hv' h => ?_
    rw [hx] at hx'; cases hx'
    rw [hv] at hv'; cases hv'
    exact Live.sound_same (lv := lv) h (by simp [Live.frontier, hc]) rfl
  · exact .ite (fun _ => .refl s) fun _ => .reattribute hl _ _
  all_goals exact .refl s

theorem Touch.confirmRestart (hl : sc.line l) : Touch sc s (s.confirmRestart l) := by
  refine .withLive fun ln lv hx hv => ?_
  split <;> rename_i hc
  · refine .ite (fun _ => ?_) fun _ => .refl s
    refine .andNote (.updLive hl fun ln' lv' hx' hv' h => ?_)
    rw [hx] at hx'; cases hx'
    rw [hv] at hv'; cases hv'
    exact Live.startProducing_sound (Live.endSegment_sound h (by simp [Live.frontier, hc]) _ _) _ _
  all_goals exact .refl s

theorem Touch.startRestart (hl : sc.line l) (d : LineDef) (st : Stoppage) (r : Tick)
    (hc : ∀ lv, s.live? l = some lv → lv.condition = .stopped st) : Touch sc s (s.startRestart l d st r) := by
  refine .trans (.updLive hl fun ln lv hx hv h => ?_) (.confirmRestart hl)
  have := hc lv (by simp [State.live?, hx, hv])
  exact Live.sound_same (lv := lv) h (by simp [Live.frontier, Live.become, this]) rfl

theorem Touch.relapse (hl : sc.line l) (st : Stoppage) (x : Tick)
    (hc : ∀ lv, s.live? l = some lv → ∃ r c, lv.condition = .restarting st r c) : Touch sc s (s.relapse l st x) := by
  refine .trans (.updLive hl fun ln lv hx hv h => ?_) (.walkAgain hl)
  obtain ⟨r, c, this⟩ := hc lv (by simp [State.live?, hx, hv])
  exact Live.sound_same (lv := lv) h (by simp [Live.frontier, Live.become, this]) rfl

theorem Touch.promote (hl : sc.line l) : Touch sc s (s.promote l) := by
  refine .withLive fun ln lv hx hv => ?_
  split <;> rename_i hc
  · rename_i c
    refine .ite (fun _ => ?_) fun _ => .refl s
    refine .andLatch (.andNote (.trans (.stoppage s l _ hl) (.updLive hl fun ln' lv' hx' hv' h => ?_))) (by simp)
    have hx'' : s.line? l = some ln' := hx'
    rw [hx] at hx''; cases hx''
    rw [hv] at hv'; cases hv'
    have hf : lv.frontier = c.chargeStart := by simp [Live.frontier, hc]
    refine ⟨?_, Period.chargePromotion_sound h.2 _⟩
    show (lv.period.chargePromotion c.root).classes.total = c.chargeStart - (lv.period.chargePromotion c.root).start
    simp only [Period.chargePromotion, Period.bucketCharge_fields]
    rw [← hf]; exact h.1
  all_goals exact .refl s

theorem Condition.frontier_mapStoppage (lv : Live) (f : Stoppage → Stoppage) (hf : ∀ st, (f st).segmentStart = st.segmentStart) :
    ({ lv with condition := lv.condition.mapStoppage f } : Live).frontier = lv.frontier := by
  unfold Live.frontier Condition.mapStoppage
  cases lv.condition <;> simp [hf]

theorem Touch.takeLongStop (hl : sc.line l) : Touch sc s (s.takeLongStop l) := by
  refine .withLive fun ln lv _ _ => ?_
  split
  · exact .refl s
  · split
    · exact .refl s
    · refine .ite (fun _ => .andLive (.andLatch (.note _ _ _) (by simp)) hl fun _ lv _ _ h => ?_) fun _ => .refl s
      exact Live.sound_same (lv := lv) h (Condition.frontier_mapStoppage lv _ fun _ => rfl) rfl

theorem Touch.takeCap (hl : sc.line l) : Touch sc s (s.takeCap l) := by
  refine .withLive fun ln lv _ _ => ?_
  split
  · exact .refl s
  · split
    · exact .refl s
    · refine .ite (fun _ => .updLive hl fun _ lv _ _ h => ?_) fun _ => .refl s
      exact Live.sound_same (lv := lv) h (Condition.frontier_mapStoppage lv _ fun _ => rfl) rfl

theorem Touch.abandon : Touch sc s (s.abandon l) := by
  refine .withLive fun ln lv _ _ => ?_
  split
  · exact .note _ _ _
  · exact .refl s

theorem Touch.startCandidate (hl : sc.line l) (d : LineDef) (x : Tick)
    (hc : ∀ lv, s.live? l = some lv → lv.condition = .producing) : Touch sc s (s.startCandidate l d x) := by
  refine .updLive hl fun ln lv hx hv h => ?_
  have hp := hc lv (by simp [State.live?, hx, hv])
  let lv1 : Live := { lv with period := lv.period.chargeStretch .producing (x - lv.lastChange) }
  have hb := lv1.leaveProducing_beside d s.runClock x
  have hf : lv.frontier = lv.lastChange := by simp [Live.frontier, hp]
  refine Live.sound_advance (lv := lv) x h rfl ?_ ?_ ?_
  · show (lv1.leaveProducing d s.runClock x).period.classes.total = _
    rw [hb.1, hf]; exact ClassTotals.total_add _ _ _
  · exact hb.2.1
  · intro h2; exact hb.2.2 (Period.chargeStretch_sound h2 _ _ (by simp))

theorem Touch.endUnobserved (hl : sc.line l) (d : LineDef) (running : Bool) : Touch sc s (s.endUnobserved l d running) := by
  refine .updLive hl fun ln lv _ _ h => ?_
  show (if running then ((lv.chargeTo s.runClock).become .producing s.runClock).startProducing d s.runClock
    else (lv.chargeTo s.runClock).become (.candidate (Candidate.begin d (s.walk l) s.runClock)) s.runClock).sound
  split
  · exact Live.startProducing_sound (Live.chargeTo_become_sound h _ _ rfl) _ _
  · exact Live.chargeTo_become_sound h _ _ rfl

theorem Touch.returnFromCandidate (hl : sc.line l) (d : LineDef) (c : Candidate) (x : Tick)
    (hc : ∀ lv, s.live? l = some lv → lv.condition = .candidate c) : Touch sc s (s.returnFromCandidate l d c x) := by
  refine .updLive hl fun ln lv hx hv h => ?_
  exact Live.startProducing_sound (Live.resolve_become_sound h (hc lv (by simp [State.live?, hx, hv])) x _ (.inl rfl)) _ _

theorem Touch.offerReport (hl : sc.line l) (r : Station) (x : Tick) : Touch sc s (s.offerReport l r x) := by
  refine .withLive fun ln lv hx hv => ?_
  have uniq : ∀ lv', s.live? l = some lv' → lv' = lv := by
    intro lv' h'; simp only [State.live?, hx, Option.bind_some, hv, Option.some.injEq] at h'; exact h'.symm
  split
  · exact .refl s
  · exact .refl s
  · exact .refl s
  · dsimp only
    split <;> rename_i hc
    · exact .ite (fun _ => .endUnobserved hl _ _) fun _ => .refl s
    · exact .ite (fun _ => .startCandidate hl _ _ fun lv' h' => uniq lv' h' ▸ hc) fun _ => .refl s
    · exact .ite (fun _ => .returnFromCandidate hl _ _ _ fun lv' h' => uniq lv' h' ▸ hc) fun _ => .walkAgain hl
    · exact .ite (fun _ => .startRestart hl _ _ _ fun lv' h' => uniq lv' h' ▸ hc) fun _ => .walkAgain hl
    · exact .ite (fun _ => .relapse hl _ _ fun lv' h' => ⟨_, _, uniq lv' h' ▸ hc⟩) fun _ => .refl s
    all_goals exact .refl s

theorem Touch.loseConstraint (hl : sc.line l) (d : LineDef) (lv : Live) (hv : s.live? l = some lv) : Touch sc s (s.loseConstraint l d lv) := by
  unfold State.loseConstraint
  have uniq : ∀ ln lv', s.line? l = some ln → ln.live = some lv' → lv' = lv := by
    intro ln lv' hx h'; simp only [State.live?, hx, Option.bind_some, h', Option.some.injEq] at hv; exact hv
  dsimp only
  split <;> rename_i hc
  · refine .updLive hl fun _ lv' _ _ h => ?_
    have hb := (lv'.chargeTo s.runClock).leaveProducing_beside d s.runClock s.runClock
    have ht := lv'.total_chargeTo s.runClock
    refine Live.sound_advance (lv := lv') s.runClock h rfl ?_ ?_ ?_
    · show ((lv'.chargeTo s.runClock).leaveProducing d s.runClock s.runClock).period.classes.total = _
      rw [hb.1]; exact ht.1
    · exact hb.2.1.trans ht.2.1
    · exact fun h2 => hb.2.2 (Period.chargeTo_sound h2 _ _ _)
  · refine .updLive hl fun ln lv' hx hv' h => ?_
    obtain rfl := uniq ln lv' hx hv'
    exact Live.resolve_become_sound h hc _ _ (.inr rfl)
  · exact .closeStoppage hl _ _
  · exact .closeStoppage hl _ _
  all_goals exact .refl s

theorem Touch.offerSilent (hl : sc.line l) (r : Station) : Touch sc s (s.offerSilent l r) := by
  refine .withLive fun ln lv hx hv => ?_
  split
  · exact .refl s
  · exact .refl s
  · exact .refl s
  · exact .ite (fun _ => .loseConstraint hl _ lv (by simp [State.live?, hx, hv])) fun _ => .walkAgain hl

theorem Touch.offerBypass (hl : sc.line l) : Touch sc s (s.offerBypass l) := by
  refine .withLive fun ln lv _ _ => ?_
  split
  · exact .refl s
  · exact .refl s
  · exact .refl s
  · exact .walkAgain hl

end

end Sys2Proof.Machine
end

