-- ==== Sys2Proof/Laws/Closing.lean ====
section
/-! SUPPORT. Each close, mode change, reset, link event and trigger expiry changes the state by the changes of Laws/Touch.lean alone. -/

namespace Sys2Proof.Machine

section
variable {sc : Scope} {s : State} {l : Fin 8}

/-! ## Closing and opening (R111–R114) -/

/-- The live state that a close opens is sound. -/
theorem Live.reopen_sound (lv : Live) (n : BitVec 32) (t : Tick) (pl : Option PlantTime) (a b c : Bool) (pr : Nat) (rs : List Station) :
    (lv.reopen (Period.opened l n t pl a b c pr rs) t).sound := by
  refine ⟨?_, Period.opened_sound _ _ _ _ _ _ _ _ _⟩
  have hf : (lv.reopen (Period.opened l n t pl a b c pr rs) t).frontier = t := Condition.frontier_carry lv t
  unfold Live.timeBalanced
  rw [hf]
  show (0#32 : Tick) = t - t
  bv_omega

theorem Touch.openNext (hl : sc.line l) (ln : Line) (lv : Live) (hx : s.line? l = some ln) (hv : ln.live = some lv) :
    Touch sc s (s.openNext l ln lv) := by
  refine .trans (.takePeriodNumber hl) (.line _ l ln _ hl ?_ ⟨rfl, .inr (by simp [hv]), ?_⟩)
  · unfold State.line? at *; simpa using hx
  · intro lv' h'
    cases h'
    exact .inl ⟨lv, hv, fun _ => Live.reopen_sound _ _ _ _ _ _ _ _ _⟩

theorem Touch.placed (hl : sc.line l) (r : ClosedRecord) (hr : ∀ lv, s.live? l = some lv → lv.sound → r.sound) (hs : (s.live? l).isSome) :
    Touch sc s (s.place l r) :=
  .andLatch (f := .period) (.andNote (.place s l r hl hr hs)) (by decide)

theorem Touch.restartAccruals (hl : sc.line l) (t : Tick) : Touch sc s (s.restartAccruals l t) :=
  .updStationsOf hl fun _ => ⟨rfl, rfl, rfl, rfl, rfl, rfl, rfl, rfl, rfl⟩

theorem Touch.closeLine (hl : sc.line l) (why : CloseReason) : Touch sc s (s.closeLine l why) := by
  refine .withLive fun ln lv hx hv => ?_
  have h1 : (s.restartAccruals l s.runClock).line? l = some ln := hx
  refine .trans (.trans (.restartAccruals hl s.runClock) ?_) (.openNext hl ln lv ?_ hv)
  · refine .placed (s := s.restartAccruals l s.runClock) hl _ (fun lv' h' hs => ?_) (by simp [State.live?, h1, hv])
    simp only [State.live?, h1, Option.bind_some, hv, Option.some.injEq] at h'
    subst h'
    exact Live.freeze_sound hs _ _ _ _
  · unfold State.line? at *; simpa using h1

theorem Touch.takeAgeLimit (hl : sc.line l) : Touch sc s (s.takeAgeLimit l) :=
  .withLive fun _ _ _ _ => .ite (fun _ => .closeLine hl _) fun _ => .refl s

/-! ## The Station Table (R10–R17) -/

theorem State.station?_number {n : Nat} {r : Station} (h : s.station? n = some r) : r.number = n := by
  have := List.find?_some h
  simpa using this

/-- A record that the table holds, on a line in scope. -/
def State.holds (s : State) (sc : Scope) (r : Station) : Prop := s.station? r.number = some r ∧ sc.line r.line

theorem State.holds_in {r : Station} (h : s.holds sc r) : s.stationIn sc r.number := by
  intro q hq
  rw [h.1] at hq; cases hq; exact h.2

/-- The record is replaced by one with the same configured fields. -/
theorem Touch.replaceStation {r q : Station} (h : s.holds sc r) (hq : r.sameConfig q) : Touch sc s (s.updStation r.number fun _ => q) :=
  .updStation fun r' hr' => by
    rw [h.1] at hr'; cases hr'; exact ⟨h.2, hq⟩

theorem Touch.recategorize {old : Station} (new : Station) (hl : sc.line old.line) (hn : s.stationIn sc old.number) :
    Touch sc s (s.recategorize old new) := by
  refine .ite (fun _ => .refl s) fun _ => ?_
  refine .andStationIn (.updLive hl fun _ lv _ _ h => ?_) hn fun r => ⟨rfl, rfl, rfl, rfl, rfl, rfl, rfl, rfl, rfl⟩
  exact Live.sound_beside (lv := lv) rfl rfl (Period.chargeStation_beside _ _ _) h

theorem Touch.applyReport {r : Station} (h : s.holds sc r) (rep : Report) : Touch sc s (s.applyReport r rep) := by
  have hl := h.2
  have hn := State.holds_in h
  unfold State.applyReport
  dsimp only
  generalize r.instantOf rep s.runClock (s.live? r.line) = x
  have h1 : Touch sc s (s.updStation r.number fun _ => r.applied rep s.runClock x) :=
    .replaceStation h ⟨rfl, rfl, rfl, rfl, rfl, rfl, rfl, rfl, rfl⟩
  generalize (s.updStation r.number fun _ => r.applied rep s.runClock x) = s1 at h1 ⊢
  have h2 : Touch sc s (if r.linkState = .silent then s1.notify (some r.line) (.stationReporting r.number s.runClock) else s1) :=
    .ite (fun _ => h1.andNote) fun _ => h1
  generalize (if r.linkState = .silent then s1.notify (some r.line) (.stationReporting r.number s.runClock) else s1) = s2 at h2 ⊢
  have h3 : Touch sc s (s2.recategorize r (r.applied rep s.runClock x)) := .trans h2 (.recategorize _ hl (h2.stationIn hn))
  generalize s2.recategorize r (r.applied rep s.runClock x) = s3 at h3 ⊢
  have h4 : Touch sc s (s3.takeCounters r r.lastApplied rep.counters rep.restart) :=
    .trans h3 (.takeCounters hl (h3.stationIn hn) _ _ _)
  exact .ite (fun _ => .trans h4 (.offerReport hl _ _)) fun _ => h4

theorem Touch.goodReply {r : Station} (h : s.holds sc r) (rep : Report) : Touch sc s (s.goodReply r rep) := by
  unfold State.goodReply
  split
  · exact .applyReport h rep
  · exact .applyReport h rep
  · exact .ite (fun _ => .applyReport h rep) fun _ =>
      .andStationIn (.refl s) (State.holds_in h) fun _ => ⟨rfl, rfl, rfl, rfl, rfl, rfl, rfl, rfl, rfl⟩

theorem Touch.declareSilent {r : Station} (h : s.holds sc r) : Touch sc s (s.declareSilent r) := by
  have h1 : Touch sc s (s.updStation r.number fun _ => { r with linkState := .silent, missRun := missUp r.missRun, goodRun := 0 }) :=
    .replaceStation h ⟨rfl, rfl, rfl, rfl, rfl, rfl, rfl, rfl, rfl⟩
  refine .trans (.andLatch (f := .link) (.andNote (.trans h1 (.recategorize _ h.2 (h1.stationIn (State.holds_in h))))) (by decide))
    (.offerSilent h.2 _)

theorem Touch.miss {r : Station} (h : s.holds sc r) : Touch sc s (s.miss r) := by
  have hn := State.holds_in h
  unfold State.miss
  split
  · exact .andStationIn (.refl s) hn fun _ => ⟨rfl, rfl, rfl, rfl, rfl, rfl, rfl, rfl, rfl⟩
  · exact .ite (fun _ => .declareSilent h) fun _ =>
      .andStationIn (.refl s) hn fun _ => ⟨rfl, rfl, rfl, rfl, rfl, rfl, rfl, rfl, rfl⟩
  · exact .andStationIn (.refl s) hn fun _ => ⟨rfl, rfl, rfl, rfl, rfl, rfl, rfl, rfl, rfl⟩

/-! ## Modes (R53–R61) -/

theorem Touch.settleScheduled (hl : sc.line l) : Touch sc s (s.settleScheduled l) := by
  refine .withLive fun ln lv hx hv => ?_
  have uniq : ∀ ln' lv', s.line? l = some ln' → ln'.live = some lv' → lv' = lv := by
    intro ln' lv' hx' h'; rw [hx] at hx'; cases hx'; rw [hv] at h'; cases h'; rfl
  dsimp only
  split <;> rename_i hc
  iterate 5 exact .updLive hl fun _ lv' _ _ h => Live.chargeTo_become_sound h _ _ rfl
  · refine .updLive hl fun _ lv' _ _ h => ?_
    have hb := (lv'.chargeTo s.runClock).leaveProducing_beside ln.defn s.runClock s.runClock
    have ht := lv'.total_chargeTo s.runClock
    refine Live.sound_advance (lv := lv') s.runClock h rfl ?_ ?_ ?_
    · show ((lv'.chargeTo s.runClock).leaveProducing ln.defn s.runClock s.runClock).period.classes.total = _
      rw [hb.1]; exact ht.1
    · exact hb.2.1.trans ht.2.1
    · exact fun h2 => hb.2.2 (Period.chargeTo_sound h2 _ _ _)
  · refine .updLive hl fun ln lv' hx' hv' h => ?_
    obtain rfl := uniq ln lv' hx' hv'
    exact Live.resolve_become_sound h hc _ _ (.inr rfl)
  · exact .closeStoppage hl _ _
  · exact .closeStoppage hl _ _

theorem Touch.endDeclared (hl : sc.line l) : Touch sc s (s.endDeclared l) := by
  refine .updLive hl fun _ lv _ _ h => ?_
  exact Live.chargeTo_become_sound h _ _ (Condition.frontier_carry _ _)

/-- What no block changes: the queue, the part states, the Host Link Controller, the clocks, the snapshot and the Cause Map, and the
Journal's mask and watermark. -/
structure State.SameFrame (s t : State) : Prop where
  pending : t.pending = s.pending
  resetPhase : t.resetPhase = s.resetPhase
  partState : t.partState = s.partState
  host : t.host = s.host
  runClock : t.runClock = s.runClock
  plant : t.plant = s.plant
  snapshot : t.snapshot = s.snapshot
  causeMap : t.causeMap = s.causeMap
  mask : t.journal.mask = s.journal.mask
  watermark : t.journal.watermark = s.journal.watermark

theorem State.notify_settings (s : State) (o : Option (Fin 8)) (n : NoticeBody) :
    (s.notify o n).journal.mask = s.journal.mask ∧ (s.notify o n).journal.watermark = s.journal.watermark := by
  unfold State.notify
  split
  · exact ⟨rfl, rfl⟩
  · split <;> exact ⟨rfl, rfl⟩

theorem Touch.frame {t : State} (h : Touch sc s t) : s.SameFrame t := by
  induction h with
  | trans _ _ h1 h2 =>
    exact ⟨h2.1.trans h1.1, h2.2.trans h1.2, h2.3.trans h1.3, h2.4.trans h1.4, h2.5.trans h1.5, h2.6.trans h1.6, h2.7.trans h1.7,
      h2.8.trans h1.8, h2.9.trans h1.9, h2.10.trans h1.10⟩
  | note s o n =>
    exact ⟨by simp, by simp, by simp, by simp, by simp, by simp, by simp, by simp, (s.notify_settings o n).1, (s.notify_settings o n).2⟩
  | _ => exact ⟨rfl, rfl, rfl, rfl, rfl, rfl, rfl, rfl, rfl, rfl⟩

/-- The line's frontier stands at the present tick. -/
def State.caughtUp (s : State) (l : Fin 8) : Prop := ∀ lv, s.live? l = some lv → lv.frontier = s.runClock

theorem State.live?_updLive (s : State) (l : Fin 8) (f : Live → Live) : (s.updLive l f).live? l = (s.live? l).map f := by
  unfold State.updLive State.updLine State.setLine State.live? State.line?
  simp only [Fin.getElem_fin, Vector.getElem_set_self]
  cases s.lines[l.val] <;> rfl

theorem State.live?_notify (s : State) (o : Option (Fin 8)) (n : NoticeBody) (l : Fin 8) : (s.notify o n).live? l = s.live? l := by
  unfold State.live? State.line?; simp

theorem State.caughtUp_updLive {f : Live → Live} (h : ∀ lv, s.live? l = some lv → (f lv).frontier = s.runClock) :
    (s.updLive l f).caughtUp l := by
  intro lv hlv
  rw [State.live?_updLive] at hlv
  obtain ⟨lv0, h0, rfl⟩ := Option.map_eq_some_iff.1 hlv
  exact h lv0 h0

theorem State.caughtUp_notify {o : Option (Fin 8)} {n : NoticeBody} (h : s.caughtUp l) : (s.notify o n).caughtUp l := by
  intro lv hlv
  rw [State.live?_notify] at hlv
  rw [State.notify_runClock]; exact h lv hlv

theorem State.settleScheduled_caughtUp : (s.settleScheduled l).caughtUp l := by
  unfold State.settleScheduled State.withLive
  split
  · rename_i hx; intro lv hlv; simp [State.live?, hx] at hlv
  · rename_i ln hx
    split
    · rename_i hv; intro lv hlv; simp [State.live?, hx, hv] at hlv
    · dsimp only
      split
      iterate 7 exact State.caughtUp_updLive fun _ _ => rfl
      iterate 2
        unfold State.closeStoppage
        rw [State.notify_updLive, State.updLive_updLive]
        exact State.caughtUp_notify (State.caughtUp_updLive fun _ _ => rfl)

theorem State.endDeclared_caughtUp : (s.endDeclared l).caughtUp l :=
  State.caughtUp_updLive fun _ _ => Condition.frontier_carry _ _

theorem Mode.frontier_condition (m : Mode) (lv : Live) (d : Tick) (a : Option Tick) :
    { lv.become (m.condition d) d with allowanceExpiry := a }.frontier = d := by
  cases m <;> rfl

theorem Touch.enterDeclared (hl : sc.line l) (m : Mode) (h : s.caughtUp l) : Touch sc s (s.enterDeclared l m) := by
  refine .updLine hl fun ln hx => ⟨rfl, .inr (by simp), fun lv' h' => .inl ?_⟩
  obtain ⟨lv, hv, rfl⟩ := Option.map_eq_some_iff.1 h'
  exact ⟨lv, hv, fun hs => Live.sound_same (lv := lv) hs
    ((Mode.frontier_condition m lv _ _).trans (h lv (by simp [State.live?, hx, hv])).symm) rfl⟩

/-- A close leaves the frontier at the present tick. -/
theorem State.closeLine_caughtUp (why : CloseReason) : (s.closeLine l why).caughtUp l := by
  unfold State.closeLine State.withLive
  split
  · rename_i hx; intro lv hlv; simp [State.live?, hx] at hlv
  · rename_i ln hx
    split
    · rename_i hv; intro lv hlv; simp [State.live?, hx, hv] at hlv
    · intro lv' hlv
      simp only [State.openNext, State.setLine, State.live?, State.line?, Fin.getElem_fin, Vector.getElem_set_self, Option.bind_some,
        Option.some.injEq] at hlv
      subst hlv
      refine (Condition.frontier_carry _ _).trans ?_
      simp [State.openNext]

theorem Touch.recordProduct (hl : sc.line l) (target : Nat) : Touch sc s (s.recordProduct l target) := by
  have h1 : Touch sc s (s.updLine l fun ln => { ln with currentProduct := target }) :=
    .updLine hl fun ln _ => ⟨rfl, .inr rfl, fun lv h => .inl ⟨lv, h, id⟩⟩
  unfold State.recordProduct
  dsimp only
  generalize (s.updLine l fun ln => { ln with currentProduct := target }) = s1 at h1 ⊢
  refine .trans h1 (.withLive fun ln lv hx hv => .ite (fun hr => .updLive hl fun ln' lv' hx' hv' h => ?_) fun _ => .closeLine hl _)
  rw [hx] at hx'; cases hx'
  rw [hv] at hv'; cases hv'
  refine ⟨h.1, ?_⟩
  obtain ⟨r1, r2, r3, r4⟩ := h.2
  refine ⟨⟨by simp, by simp; omega⟩, r2, r3, fun hs => ⟨(r4 hs).1, ?_⟩⟩
  have := (r4 hs).2
  simpa [Period.runsBalanced, sumCounts_append] using this

theorem State.recordProduct_caughtUp (target : Nat) (h : s.caughtUp l) : (s.recordProduct l target).caughtUp l := by
  unfold State.recordProduct
  dsimp only
  have h1 : (s.updLine l fun ln => { ln with currentProduct := target }).caughtUp l := by
    intro lv hlv
    refine h lv ?_
    simp only [State.updLine, State.setLine, State.live?, State.line?, Fin.getElem_fin, Vector.getElem_set_self] at hlv ⊢
    cases hx : s.lines[l.val] <;> simp_all
  generalize (s.updLine l fun ln => { ln with currentProduct := target }) = s1 at h1 ⊢
  unfold State.withLive
  split
  · exact h1
  · split
    · exact h1
    · dsimp only
      split
      · exact State.caughtUp_updLive fun lv hlv => h1 lv hlv
      · exact State.closeLine_caughtUp _

theorem Touch.resumeScheduled (hl : sc.line l) (h : s.caughtUp l) : Touch sc s (s.resumeScheduled l) := by
  refine .updLine hl fun ln hx => ⟨rfl, .inr (by simp), fun lv' h' => .inl ?_⟩
  obtain ⟨lv, hv, rfl⟩ := Option.map_eq_some_iff.1 h'
  refine ⟨lv, hv, fun hs => ?_⟩
  have hf := h lv (by simp [State.live?, hx, hv])
  dsimp only
  split
  · exact Live.sound_same (lv := lv) hs hf.symm rfl
  · split
    · exact Live.sound_same (lv := lv) hs hf.symm rfl
    · exact Live.sound_same (lv := lv) hs hf.symm rfl
    · split
      · let q : Live := { lv with allowanceExpiry := none }
        have k : (q.become .producing s.runClock).sound := Live.sound_same (lv := lv) hs hf.symm rfl
        exact Live.startProducing_sound k _ _
      · exact Live.sound_same (lv := lv) hs hf.symm rfl

theorem Touch.declare (hl : sc.line l) (m : Mode) : Touch sc s (s.declare l m) := by
  unfold State.declare
  split
  · exact .refl s
  · split
    · exact .refl s
    · exact .refl s
    · exact .trans (.settleScheduled hl) (.enterDeclared hl _ State.settleScheduled_caughtUp)
    · unfold State.returnScheduled
      split
      · exact .refl s
      · exact .trans (.endDeclared hl) (.resumeScheduled hl State.endDeclared_caughtUp)
      · exact .trans (.endDeclared hl) (.resumeScheduled hl State.endDeclared_caughtUp)
      · exact .trans (.trans (.endDeclared hl) (.recordProduct hl _))
          (.resumeScheduled hl (State.recordProduct_caughtUp _ State.endDeclared_caughtUp))
    · exact .trans (.endDeclared hl) (.enterDeclared hl _ State.endDeclared_caughtUp)

theorem Touch.takeAllowance (hl : sc.line l) : Touch sc s (s.takeAllowance l) := by
  refine .withLive fun ln lv _ _ => ?_
  have h1 : Touch sc s (s.updLive l fun lv =>
      { (lv.chargeTo s.runClock).become (.overrun s.runClock) s.runClock with allowanceExpiry := none }) :=
    .updLive hl fun _ lv _ _ h => Live.sound_same (Live.chargeTo_become_sound h s.runClock (.overrun s.runClock) rfl) rfl rfl
  split
  · exact .refl s
  · refine .ite (fun _ => ?_) fun _ => .refl s
    dsimp only
    split
    · exact .andNote h1
    · exact .andNote h1
    all_goals exact .refl s

/-! ## The resets after a close (R64, R130, R162, R188) -/

theorem Touch.resetLine (hl : sc.line l) (h : s.caughtUp l) : Touch sc s (s.resetLine l) := by
  have h1 : Touch sc s (s.abandon l) := .abandon
  have e1 : (s.abandon l).live? l = s.live? l := by
    unfold State.abandon State.withLive
    split
    · rfl
    · split
      · rfl
      · dsimp only
        split
        · exact State.live?_notify _ _ _ _
        · rfl
  have k1 := h1.frame.runClock
  unfold State.resetLine
  dsimp only
  generalize s.abandon l = s1 at h1 e1 k1 ⊢
  have h2 : Touch sc s (s1.updStationsOf l (·.restarted s.runClock)) :=
    .trans h1 (.updStationsOf hl fun _ => ⟨rfl, rfl, rfl, rfl, rfl, rfl, rfl, rfl, rfl⟩)
  have e2 : (s1.updStationsOf l (·.restarted s.runClock)).live? l = s.live? l := e1
  generalize s1.updStationsOf l (·.restarted s.runClock) = s2 at h2 e2 ⊢
  have h3 : Touch sc s (s2.updLive l fun lv => { lv with rate := RateState.initial }) :=
    .trans h2 (.updLive hl fun _ lv _ _ hs => Live.sound_beside (lv := lv) rfl rfl (.refl _) hs)
  have e3 := State.live?_updLive s2 l fun lv => { lv with rate := RateState.initial }
  rw [e2] at e3
  generalize (s2.updLive l fun lv => { lv with rate := RateState.initial }) = s3 at h3 e3 ⊢
  refine .trans h3 (.updLine hl fun ln hx => ?_)
  unfold Line.conditionByMode
  split
  · refine ⟨rfl, .inr (by simp), fun lv' h' => .inl ?_⟩
    obtain ⟨lv, hv, rfl⟩ := Option.map_eq_some_iff.1 h'
    refine ⟨lv, hv, fun hs => Live.sound_same (lv := lv) hs ?_ rfl⟩
    have : s3.live? l = some lv := by simp [State.live?, hx, hv]
    rw [e3] at this
    obtain ⟨lv0, h0, rfl⟩ := Option.map_eq_some_iff.1 this
    exact (h lv0 h0).symm
  all_goals exact ⟨rfl, .inr rfl, fun lv h => .inl ⟨lv, h, id⟩⟩

/-- A close, and the resets that follow it. -/
theorem Touch.closeReset (hl : sc.line l) (why : CloseReason) : Touch sc s ((s.closeLine l why).resetLine l) := by
  have h1 : Touch sc s (s.closeLine l why) := .closeLine hl why
  have h2 : (s.closeLine l why).caughtUp l := State.closeLine_caughtUp why
  generalize s.closeLine l why = s1 at h1 h2 ⊢
  exact .trans h1 (.resetLine hl h2)

theorem Touch.changeRehearsal (hl : sc.line l) (on : Bool) : Touch sc s (s.changeRehearsal l on) := by
  unfold State.changeRehearsal
  have h1 : Touch sc s (s.updLine l fun ln => { ln with rehearsal := on }) :=
    .updLine hl fun ln _ => ⟨rfl, .inr rfl, fun lv h => .inl ⟨lv, h, id⟩⟩
  generalize (s.updLine l fun ln => { ln with rehearsal := on }) = s1 at h1 ⊢
  exact .trans h1 (.closeReset hl _)

/-! ## Field links (chapter 8) -/

/-- A reader in the polarity that a character was driven in reads that character (R154, R194). -/
@[simp] theorem Polarity.read_drive (p : Polarity) (b : Byte) : p.read (p.drive b) = b := by cases p <;> rfl

/-- A reader in the other polarity reads the complement. -/
@[simp] theorem Polarity.flip_read_drive (p : Polarity) (b : Byte) : p.flip.read (p.drive b) = ~~~b := by cases p <;> rfl

@[simp] theorem Polarity.flip_flip (p : Polarity) : p.flip.flip = p := by cases p <;> rfl

variable {k : Fin 4}

theorem LinkStats.count_sound {t : LinkStats} (h : t.sound) (o : SlotOutcome) : (t.count o).sound := by
  intro hp
  unfold LinkStats.sound at h
  cases o <;> simp only [LinkStats.count, satAdd, maxCount] at hp h ⊢ <;> omega

theorem Link.follows_of {L L' : Link} (h1 : L'.bitRate = L.bitRate) (h2 : L'.polarityMode = L.polarityMode) (h3 : L'.pace = L.pace)
    (h4 : L'.missThreshold = L.missThreshold) (h5 : L'.returnThreshold = L.returnThreshold)
    (h6 : L.sound → L'.deadRounds ≤ 6) (h7 : L.sound → L'.busyRun ≤ 255) (h8 : L.stats.sound → L'.stats.sound) : L.follows L' :=
  ⟨h1, h2, h3, h4, h5, fun h => ⟨h6 h, h7 h, h8 h.2.2⟩⟩

theorem Touch.setPhase (hk : sc.link k) (p : SlotPhase) : Touch sc s (s.setPhase k p) :=
  .updLink hk ⟨rfl, rfl, rfl, rfl, rfl, id⟩

theorem Touch.markValid (hk : sc.link k) : Touch sc s (s.markValid k) := .updLink hk ⟨rfl, rfl, rfl, rfl, rfl, id⟩

theorem Touch.beginRound (hk : sc.link k) : Touch sc s (s.beginRound k) := .updLink hk ⟨rfl, rfl, rfl, rfl, rfl, id⟩

theorem Touch.takeRoundStart (hk : sc.link k) : Touch sc s (s.takeRoundStart k) := by
  unfold State.takeRoundStart
  split
  · exact .ite (fun _ => .beginRound hk) fun _ => .refl s
  all_goals exact .refl s

theorem Touch.faultLink (hk : sc.link k) (why : LinkFault) : Touch sc s (s.faultLink k why) :=
  .andLatch (f := .link) (.andNote (.updLink hk (Link.follows_of rfl rfl rfl rfl rfl (fun _ => Nat.zero_le 6) (fun h => h.2.1) id)))
    (by decide)

theorem Touch.deadHunt (hk : sc.link k) : Touch sc s (s.deadHunt k) := by
  unfold State.deadHunt
  dsimp only
  split
  · refine .ite (fun hn => .andNote (.updLink hk (Link.follows_of rfl rfl rfl rfl rfl (fun _ => ?_) (fun h => h.2.1) id))) fun _ =>
      .ite (fun _ => .faultLink hk _) fun hn => .updLink hk (Link.follows_of rfl rfl rfl rfl rfl (fun _ => ?_) (fun h => h.2.1) id)
    · show (s.link k).deadRounds + 1 ≤ 6; omega
    · show (s.link k).deadRounds + 1 ≤ 6; omega
  all_goals
    refine .ite (fun _ => .faultLink hk _) fun hn => .updLink hk (Link.follows_of rfl rfl rfl rfl rfl (fun _ => ?_) (fun h => h.2.1) id)
    show (s.link k).deadRounds + 1 ≤ 6; omega

theorem Touch.deadFault (hk : sc.link k) : Touch sc s (s.deadFault k) := by
  unfold State.deadFault
  dsimp only
  split
  · refine .ite (fun hn => .updLink hk (Link.follows_of rfl rfl rfl rfl rfl (fun _ => ?_) (fun h => h.2.1) id)) fun hn =>
      .updLink hk (Link.follows_of rfl rfl rfl rfl rfl (fun _ => ?_) (fun h => h.2.1) id)
    · exact Nat.zero_le 6
    · show (s.link k).deadRounds + 1 ≤ 6; omega
  all_goals exact .refl s

theorem Touch.deadRound (hk : sc.link k) : Touch sc s (s.deadRound k) := by
  unfold State.deadRound
  split
  · exact .faultLink hk _
  · exact .deadHunt hk
  · exact .deadFault hk
  · exact .refl s

theorem Touch.completeRound (hk : sc.link k) (r : Round) : Touch sc s (s.completeRound k r) :=
  .trans (.ite (fun _ => .refl s) fun _ => .deadRound hk) (.updLink hk ⟨rfl, rfl, rfl, rfl, rfl, id⟩)

theorem Touch.nextSlot (hk : sc.link k) : Touch sc s (s.nextSlot k) := by
  unfold State.nextSlot
  split
  · exact .refl s
  · exact .ite (fun _ => .updLink hk ⟨rfl, rfl, rfl, rfl, rfl, id⟩) fun _ => .completeRound hk _

theorem Touch.takeIdleCheck (hk : sc.link k) : Touch sc s (s.takeIdleCheck k) := by
  unfold State.takeIdleCheck
  split
  · exact .refl s
  · split
    · exact .trans (.setPhase hk _) (.updLink hk (Link.follows_of rfl rfl rfl rfl rfl (fun h => h.1) (fun _ => Nat.zero_le _) id))
    all_goals exact .refl s

theorem Touch.busStuck (hk : sc.link k) : Touch sc s (s.busStuck k) := by
  unfold State.busStuck
  split
  · exact .faultLink hk _
  · exact .faultLink hk _
  · exact .andLatch (f := .link) (.andNote (.updLink hk ⟨rfl, rfl, rfl, rfl, rfl, id⟩)) (by decide)
  all_goals exact .refl s

theorem Touch.takeBusy (hk : sc.link k) (w : Pair Bool) : Touch sc s (s.takeBusy k w) := by
  unfold State.takeBusy
  split
  · exact .refl s
  · split
    · refine .ite (fun _ => .trans (.trans (.updLink (f := Link.skipBusy) hk
        (Link.follows_of rfl rfl rfl rfl rfl (fun h => h.1) (fun _ => Nat.min_le_right _ _) id)) ?_)
        (.nextSlot hk)) fun _ => .refl s
      exact .ite (fun _ => .busStuck hk) fun _ => .refl _
    all_goals exact .refl s

theorem Touch.takePollSent (hk : sc.link k) : Touch sc s (s.takePollSent k) := by
  unfold State.takePollSent
  split
  · exact .refl s
  · split
    · exact .setPhase hk _
    all_goals exact .refl s

theorem Touch.validReply (hk : sc.link k) : Touch sc s (s.validReply k) := by
  unfold State.validReply
  split
  · exact .updLink hk (Link.follows_of rfl rfl rfl rfl rfl (fun _ => Nat.zero_le _) (fun h => h.2.1) id)
  · exact .andNote (.updLink hk (Link.follows_of rfl rfl rfl rfl rfl (fun _ => Nat.zero_le _) (fun h => h.2.1) id))
  all_goals exact .refl s

theorem Touch.handOver (hl : ∀ l, sc.line l) (n : Nat) (o : SlotOutcome) : Touch sc s (s.handOver n o) := by
  unfold State.handOver
  split
  · exact .refl s
  · rename_i r hr
    have hh : s.holds sc r := ⟨(State.station?_number hr).symm ▸ hr, hl _⟩
    refine .ite (fun _ => .refl s) fun _ => ?_
    split
    · exact .goodReply hh _
    all_goals exact .miss hh

theorem Touch.takeOutcome (hl : ∀ l, sc.line l) (hk : sc.link k) (n : Nat) (o : SlotOutcome) : Touch sc s (s.takeOutcome k n o) := by
  refine .trans (.trans (.trans
    (.updLink (f := fun L => { L with stats := L.stats.count o }) hk
      (Link.follows_of rfl rfl rfl rfl rfl (fun h => h.1) (fun h => h.2.1) fun h => LinkStats.count_sound h o)) ?_)
    (.handOver hl n o)) (.nextSlot hk)
  exact .ite (fun _ => .trans (.markValid hk) (.validReply hk)) fun _ => .refl _

theorem Touch.takeReplyWait (hl : ∀ l, sc.line l) (hk : sc.link k) : Touch sc s (s.takeReplyWait k) := by
  unfold State.takeReplyWait
  split
  · exact .refl s
  · split
    · exact .takeOutcome hl hk _ _
    all_goals exact .refl s

theorem Touch.takeReplyChar (hk : sc.link k) (e : CharEdge) : Touch sc s (s.takeReplyChar k e) := by
  unfold State.takeReplyChar
  split
  · exact .refl s
  · split
    · exact .ite (fun _ => .setPhase hk _) fun _ => .refl s
    · exact .ite (fun _ => .setPhase hk _) fun _ => .refl s
    · exact .setPhase hk _
    all_goals exact .refl s

theorem Touch.takeReply (hl : ∀ l, sc.line l) (hk : sc.link k) (w : Pair Byte) : Touch sc s (s.takeReply k w) := by
  unfold State.takeReply
  split
  · exact .refl s
  · split
    · exact .ite (fun _ => .takeOutcome hl hk _ _) fun _ => .refl s
    all_goals exact .refl s

theorem Touch.takeReplyGap (hl : ∀ l, sc.line l) (hk : sc.link k) : Touch sc s (s.takeReplyGap k) := by
  unfold State.takeReplyGap
  split
  · exact .refl s
  · split
    · exact .takeOutcome hl hk _ _
    all_goals exact .refl s

/-! ## Triggers (R139, R140) -/

variable {j : Fin 8}

theorem Touch.closeOne (hl : ∀ l, sc.line l) (set : BitVec 8) (a : State × BitVec 8) (l : Fin 8) :
    Touch sc a.1 (closeOne set a l).1 := by
  unfold Sys2Proof.Machine.closeOne
  split
  · exact .closeLine (hl l) _
  · exact .refl _

theorem Touch.foldl {α : Type} {f : State × BitVec 8 → α → State × BitVec 8} (h : ∀ a x, Touch sc a.1 (f a x).1) (xs : List α)
    (a : State × BitVec 8) : Touch sc a.1 (xs.foldl f a).1 := by
  induction xs generalizing a with
  | nil => exact .refl _
  | cons x xs ih => exact .trans (h a x) (ih _)

theorem Touch.closeSet (hl : ∀ l, sc.line l) (set : BitVec 8) : Touch sc s (s.closeSet set).1 :=
  .foldl (fun a l => .closeOne hl set a l) allLines (s, 0#8)

theorem Trigger.fired_follows (t : Trigger) (n : Nat) (o : Option PlantTime) : t.follows (t.fired n o) := by
  unfold Trigger.fired
  dsimp only
  split <;> exact ⟨rfl, rfl⟩

theorem Touch.fireTrigger (hl : ∀ l, sc.line l) (hj : sc.trigger j) (n : Nat) (moved : Bool) : Touch sc s (s.fireTrigger j n moved) :=
  .andLatch (f := .clock) (.andNote (.trans (.closeSet hl _) (.updTrigger hj (Trigger.fired_follows _ _ _)))) (by decide)

theorem Touch.takeTriggerExpiry (hl : ∀ l, sc.line l) (hj : sc.trigger j) : Touch sc s (s.takeTriggerExpiry j) := by
  unfold State.takeTriggerExpiry
  split
  · exact .refl s
  · exact .ite (fun _ => .fireTrigger hl hj _ _) fun _ => .refl s

theorem Touch.examineOne (hl : ∀ l, sc.line l) (hj : ∀ j, sc.trigger j) (n : Nat) (a : State × BitVec 8) (j : Fin 8) :
    Touch sc a.1 (examineOne n a j).1 := by
  unfold Sys2Proof.Machine.examineOne
  split
  · exact .fireTrigger hl (hj j) _ _
  · exact .refl _

/-- A move of the Plant Clock (R140): the clock, and then the expiries it causes. -/
theorem Touch.movePlant (hl : ∀ l, sc.line l) (hj : ∀ j, sc.trigger j) (old : Nat) (new : PlantClock) :
    Touch sc { s with plant := some new } (s.movePlant old new).1 := by
  unfold State.movePlant
  dsimp only
  split
  · exact .foldl (fun a j => .examineOne hl hj _ a j) _ ({ s with plant := some new }, 0#8)
  · exact .refl _

/-! ## Entry to MONITORING and SUSPEND (R186, R187) -/

theorem Touch.enterLine (hl : sc.line l) (hp : sc.part) : Touch sc s (s.enterLine l) := by
  unfold State.enterLine
  split
  · exact .refl s
  · rename_i ln hx
    refine .trans (.takePeriodNumber hl) (.line _ l ln _ hl ?_ ⟨rfl, .inl hp, fun lv' h' => .inr ⟨hp, ?_⟩⟩)
    · unfold State.line? at *; simpa using hx
    · cases h'
      refine ⟨?_, Period.opened_sound _ _ _ _ _ _ _ _ _⟩
      show (0#32 : Tick) = s.runClock - s.runClock
      bv_omega

theorem Touch.enterLink (hk : sc.link k) : Touch sc s (s.enterLink k) :=
  .ite (fun _ => .refl s) fun _ =>
    .trans (.updLink hk (Link.follows_of rfl rfl rfl rfl rfl (fun _ => Nat.zero_le _) (fun _ => Nat.zero_le _) id)) (.beginRound hk)

theorem Touch.suspendLine (hl : sc.line l) (hp : sc.part) : Touch sc s (s.suspendLine l) := by
  unfold State.suspendLine
  split
  · exact .refl s
  · have h0 : Touch sc s ((s.closeLine l .suspend).abandon l) := .trans (.closeLine hl .suspend) .abandon
    generalize (s.closeLine l .suspend).abandon l = s1 at h0 ⊢
    refine .trans h0 ?_
    have h1 : Touch sc s1 (s1.updLine l fun ln => { ln with live := none }) :=
      .updLine hl fun ln _ => ⟨rfl, .inl hp, fun lv h => by cases h⟩
    refine .trans (.trans h1 (.updStationsOf (f := fun r => { r with accrualStart := none }) hl fun _ => ⟨rfl, rfl, rfl, rfl, rfl, rfl, rfl, rfl, rfl⟩)) (.counter _ l _ hl)

theorem Touch.foldlState {α : Type} {f : State → α → State} (h : ∀ a x, Touch sc a (f a x)) (xs : List α) (a : State) :
    Touch sc a (xs.foldl f a) := by
  induction xs generalizing a with
  | nil => exact .refl _
  | cons x xs ih => exact .trans (h a x) (ih _)

end

end Sys2Proof.Machine
end

