-- ==== Sys2Proof/Laws/Commands.lean ====
section
/-! SUPPORT. The four ways of a request (R183, R184), and the operand lookups at the bounds of their ranges: what a statement about one request
needs before its block's meaning. -/

namespace Sys2Proof.Machine

/-! ## Operands -/

theorem u8_lt (p : List Byte) (i : Nat) : u8 p i < 256 := (p.getD i 0#8).isLt

theorem u16_lt (p : List Byte) (i : Nat) : u16 p i < 65536 := by
  have := u8_lt p i; have := u8_lt p (i + 1); unfold u16; omega

theorem u32_lt (p : List Byte) (i : Nat) : u32 p i < 4294967296 := by
  have := u16_lt p i; have := u16_lt p (i + 2); unfold u32; omega

theorem lineNo_val {n : Nat} {l : Fin 8} (h : n = l.val) : lineNo n = some l := by subst h; simp [lineNo]

theorem lineNo_none {n : Nat} (h : 7 < n) : lineNo n = none := by unfold lineNo; rw [dif_neg]; omega

theorem linkNo_val {n : Nat} {k : Fin 4} (h : n = k.val) : linkNo n = some k := by subst h; simp [linkNo]

theorem linkNo_none {n : Nat} (h : 3 < n) : linkNo n = none := by unfold linkNo; rw [dif_neg]; omega

/-! ## Requests -/

/-- The block's meaning of a request. -/
def requestBlock : Instr → List Byte → State → State × Reply
  | .defineLine _ => defineLine
  | .undefineLine _ => undefineLine
  | .enrollStation _ => enrollStation
  | .removeStation _ => removeStation
  | .bypassStation _ => bypassStation
  | .readStation _ => readStation
  | .mapCause _ => mapCause
  | .unmapCause _ => unmapCause
  | .readMap _ => readMap
  | .declareLineMode _ => declareLineMode
  | .readLineStatus _ => readLineStatus
  | .setRate _ => setRate
  | .closePeriod _ => closePeriod
  | .listClosed _ => listClosed
  | .readClosed _ => readClosed
  | .releaseClosed _ => releaseClosed
  | .readOpen _ => readOpen
  | .loadClock _ => loadClock
  | .stepClock _ => stepClock
  | .readClock _ => readClock
  | .armTrigger _ => armTrigger
  | .disarmTrigger _ => disarmTrigger
  | .readTriggers _ => readTriggers
  | .setLink _ => setLink
  | .readLinkStats _ => readLinkStats
  | .setRehearse _ => setRehearse
  | .injectReport _ => injectReport
  | .takeNotices _ => takeNotices
  | .setNoticeMask _ => setNoticeMask
  | .setWatermark _ => setWatermark
  | .readAttention _ => readAttention
  | .clearAttention _ => clearAttention
  | .setAttention _ => setAttention
  | .commit _ => commitReq
  | .suspend _ => suspendReq
  | .lineReset _ => lineResetReq
  | .identify _ => identifyReq
  | .restart _ => restartReq
  | _ => fun _ s => (s, .ok)

section
variable {s : State} {kind : Byte} {lengths : List Nat} {block : List Byte → State → State × Reply} {p : List Byte}

/-- A ready host link and an accepted length: the block acts, and its reply is answered. -/
theorem State.request_ready (h : s.ready) (hp : p.length ∈ lengths) :
    s.request kind lengths block p = (block p s).1.respond kind (block p s).2 := by
  unfold State.request
  rw [if_neg h.1, if_neg (by simp [h.2]), if_pos (by simpa using hp)]

/-- A ready host link and another length: BAD_LENGTH, and the block does not act. -/
theorem State.request_badLength (h : s.ready) (hp : p.length ∉ lengths) :
    s.request kind lengths block p = s.respond kind (.refuse .badLength) := by
  unfold State.request
  rw [if_neg h.1, if_neg (by simp [h.2]), if_neg (by simpa using hp)]

/-- An idle receiver loses the request. -/
theorem State.request_idle (h : s.host.receiver = .idle) : s.request kind lengths block p = s := by
  unfold State.request
  rw [if_pos h]

/-- While a response is being sent, the request is discarded and the overrun flag set. -/
theorem State.request_overrun (h : s.host.receiver ≠ .idle) (hs : s.host.sending.isSome) :
    s.request kind lengths block p = { s with host := { s.host with overrun := true } } := by
  unfold State.request
  rw [if_neg h, if_pos hs]

/-- A relation that holds across losing, discarding, refusing and answering a request holds across it. -/
theorem State.request_cases {P : State → Prop} (hidle : P s) (hover : P { s with host := { s.host with overrun := true } })
    (hanswer : ∀ r : Reply, P (s.respond kind r))
    (hblock : p.length ∈ lengths → P ((block p s).1.respond kind (block p s).2)) : P (s.request kind lengths block p) := by
  unfold State.request
  split
  · exact hidle
  · split
    · exact hover
    · split
      · rename_i h; exact hblock (by simpa using h)
      · exact hanswer _

/-- A request runs its block as `State.request` says. -/
theorem exec_request {i : Instr} (h : requestForm i = some (kind, lengths, p)) (s : State) :
    exec i s = .next (s.request kind lengths (requestBlock i) p) := by
  cases i <;> first
    | (simp only [requestForm, Option.some.injEq, Prod.mk.injEq] at h; obtain ⟨rfl, rfl, rfl⟩ := h; rfl)
    | (simp only [requestForm] at h; cases h)

/-- A request of an accepted length, while the host link is ready, is answered with its block's reply. -/
theorem exec_ready {i : Instr} (h : requestForm i = some (kind, lengths, p)) (hr : s.ready) (hp : p.length ∈ lengths) :
    exec i s = .next ((requestBlock i p s).1.respond kind (requestBlock i p s).2) := by
  rw [exec_request h, State.request_ready hr hp]

/-- A request of another length, while the host link is ready, is answered BAD_LENGTH. -/
theorem exec_badLength {i : Instr} (h : requestForm i = some (kind, lengths, p)) (hr : s.ready) (hp : p.length ∉ lengths) :
    exec i s = .next (s.respond kind (.refuse .badLength)) := by
  rw [exec_request h, State.request_badLength hr hp]

end

end Sys2Proof.Machine
end

