-- ==== Sys2Proof/Laws/Invariants.lean ====
section
/-! SUPPORT. What the changes of Laws/Touch.lean keep: the soundness of the account, the Period Store, the Journal, the enrollment and the
links, and everything out of their scope. Each lemma is one induction. -/

namespace Sys2Proof.Machine

section
variable {sc : Scope} {s t : State}

/-! ## Soundness -/

theorem State.notify_line? (s : State) (o : Option (Fin 8)) (n : NoticeBody) (l : Fin 8) : (s.notify o n).line? l = s.line? l := by
  unfold State.line?; simp

/-- The live lines and the Period Store keep sound accounts (R99, R104, R105, R107). -/
theorem Touch.accountSound (h : Touch sc s t) (hs : s.accountSound) : t.accountSound := by
  induction h with
  | trans _ _ ih1 ih2 => exact ih2 (ih1 hs)
  | note s o n =>
    refine ⟨fun l lv hl => hs.1 l lv (by rwa [State.live?_notify] at hl), fun l r hr => hs.2.1 l r (by simpa using hr),
      fun r hr => hs.2.2 r (by simpa using hr)⟩
  | line s l ln ln' _ hx hf =>
    refine ⟨fun l' lv hl => ?_, hs.2.1, hs.2.2⟩
    by_cases e : l = l'
    · subst e
      have hv : ln'.live = some lv := by
        simpa [State.live?, State.line?, State.setLine] using hl
      rcases hf.2.2 lv hv with ⟨lv0, h0, hk⟩ | ⟨_, hk⟩
      · exact hk (hs.1 l lv0 (by simp [State.live?, hx, h0]))
      · exact hk
    · refine hs.1 l' lv ?_
      have : (l.val = l'.val) = False := by simp [Fin.val_inj, e]
      simpa [State.live?, State.line?, State.setLine, Vector.getElem_set, this] using hl
  | place s l r _ hr hsm =>
    refine ⟨hs.1, fun l' q hq => ?_, hs.2.2⟩
    by_cases e : l = l'
    · subst e
      have hsound : r.sound := by
        obtain ⟨lv, hlv⟩ := Option.isSome_iff_exists.1 hsm
        exact hr lv hlv (hs.1 l lv hlv)
      have hq' : q ∈ placeIn s.store[l] r := by simpa using hq
      unfold placeIn at hq'
      split at hq'
      · rename_i oldest rest hh
        split at hq'
        · rcases List.mem_append.1 hq' with hm | hm
          · exact hs.2.1 l q (by rw [hh]; simp [hm])
          · simp only [List.mem_singleton] at hm; subst hm; exact hsound
        · rcases List.mem_append.1 hq' with hm | hm
          · exact hs.2.1 l q hm
          · simp only [List.mem_singleton] at hm; subst hm; exact hsound
      · simp only [List.mem_singleton] at hq'; subst hq'; exact hsound
    · have : (l.val = l'.val) = False := by simp [Fin.val_inj, e]
      exact hs.2.1 l' q (by simpa [Vector.getElem_set, this] using hq)
  | _ => exact hs

/-- No list of the Period Store grows past three records (R120, R121). -/
theorem Touch.storeSound (h : Touch sc s t) (hs : s.storeSound) : t.storeSound := by
  induction h with
  | trans _ _ ih1 ih2 => exact ih2 (ih1 hs)
  | note s o n => intro l; simpa using hs l
  | place s l r _ _ _ =>
    intro l'
    by_cases e : l = l'
    · subst e
      have := hs l
      show (s.store.set l (placeIn s.store[l] r))[l].length ≤ 3
      simp only [Fin.getElem_fin, Vector.getElem_set_self]
      unfold placeIn
      split
      · rename_i hh
        rw [Fin.getElem_fin] at this
        split
        · rw [hh] at this; simpa using this
        · simp; omega
      · simp
    · have : (l.val = l'.val) = False := by simp [Fin.val_inj, e]
      simpa [Vector.getElem_set, this] using hs l'
  | _ => exact hs

theorem consecutiveFrom_append (q : BitVec 16) (xs : List Notice) (n : Notice) (h : consecutiveFrom q xs)
    (hn : n.sequence = q + BitVec.ofNat 16 xs.length) : consecutiveFrom q (xs ++ [n]) := by
  induction xs generalizing q with
  | nil => exact ⟨by simpa using hn, trivial⟩
  | cons x xs ih =>
    refine ⟨h.1, ih _ h.2 ?_⟩
    rw [hn, List.length_cons, BitVec.ofNat_add]
    show q + (BitVec.ofNat 16 xs.length + 1#16) = q + 1#16 + BitVec.ofNat 16 xs.length
    ac_rfl

/-- A notice that is queued keeps the Journal sound, where there is room and the gap count is settled by the caller (R170). -/
theorem State.enqueue_sound (s : State) (o : Option (Fin 8)) (n : NoticeBody) (h : s.journalSound) (hr : s.journal.queue.length < 512) :
    (s.enqueue o n).journalSound := by
  obtain ⟨⟨h1, h2, h3, h4, h5, h6, h7⟩, h8⟩ := h
  refine ⟨⟨?_, ?_, ?_, h4, h5, h6, h7⟩, ?_⟩
  · simp [State.enqueue]; omega
  · have e : (s.enqueue o n).journal.nextSequence - BitVec.ofNat 16 (s.enqueue o n).journal.queue.length
        = s.journal.nextSequence - BitVec.ofNat 16 s.journal.queue.length := by
      simp only [State.enqueue, List.length_append, List.length_singleton]
      bv_omega
    rw [e]
    refine consecutiveFrom_append _ _ _ h2 ?_
    show s.journal.nextSequence = _
    bv_omega
  · intro hg; have := h3 hg; omega
  · unfold State.noticeSound State.enqueue Attention.queued
    cases hm : s.attention.mode <;> simp

theorem State.notify_journalSound (s : State) (o : Option (Fin 8)) (n : NoticeBody) (h : s.journalSound) : (s.notify o n).journalSound := by
  unfold State.notify
  split
  · exact h
  · split
    · rename_i hc
      exact State.enqueue_sound s o n h hc.1
    · rename_i hc
      obtain ⟨⟨h1, h2, h3, h4, h5, h6, h7⟩, h8⟩ := h
      refine ⟨⟨h1, h2, fun _ => ?_, Nat.min_le_right _ _, h5, h6, h7⟩, h8⟩
      show s.journal.queue.length = 512
      by_cases hq : s.journal.queue.length < 512
      · exact h3 (by
          have : s.journal.gapCount ≠ 0 := fun e => hc ⟨hq, e⟩
          omega)
      · omega

theorem Touch.journalSound (h : Touch sc s t) (hs : s.journalSound) : t.journalSound := by
  induction h with
  | trans _ _ ih1 ih2 => exact ih2 (ih1 hs)
  | note s o n => exact s.notify_journalSound o n hs
  | latch s f hf =>
    refine ⟨hs.1, fun hm => ?_⟩
    have := hs.2 hm
    cases f
    case notice => exact absurd rfl hf
    all_goals exact this
  | _ => exact hs

theorem Touch.linksSound (h : Touch sc s t) (hs : s.linksSound) : t.linksSound := by
  induction h with
  | trans _ _ ih1 ih2 => exact ih2 (ih1 hs)
  | note s o n => intro k; have := hs k; unfold State.link at *; simpa using this
  | link s k L _ hL =>
    intro k'
    by_cases e : k = k'
    · subst e
      have := hL.2.2.2.2.2 (hs k)
      simpa [State.link] using this
    · have hk := hs k'
      have : (k.val = k'.val) = False := by simp [Fin.val_inj, e]
      simpa [State.link, Vector.getElem_set, this] using hk
  | _ => exact hs

/-! ## A latched flag stays set (R175) -/

theorem Attention.latch_keeps (a : Attention) (g f : AttentionFlag) (h : a.flags.get f = true) : (a.latch g).flags.get f = true := by
  cases g <;> cases f <;> simp_all [Attention.latch, AttentionSet.put, AttentionSet.get]

theorem Attention.queued_keeps (a : Attention) (wasEmpty reached : Bool) (f : AttentionFlag) (h : a.flags.get f = true) :
    (a.queued wasEmpty reached).flags.get f = true := by
  unfold Attention.queued
  cases f <;> simp_all [AttentionSet.get]
  split <;> simp

theorem State.notify_latched (s : State) (o : Option (Fin 8)) (n : NoticeBody) (f : AttentionFlag) (h : s.attention.flags.get f = true) :
    (s.notify o n).attention.flags.get f = true := by
  unfold State.notify
  split
  · exact h
  · split
    · exact Attention.queued_keeps _ _ _ _ h
    · exact h

theorem Touch.latched (h : Touch sc s t) (f : AttentionFlag) (hf : s.attention.flags.get f = true) : t.attention.flags.get f = true := by
  induction h with
  | trans _ _ ih1 ih2 => exact ih2 (ih1 hf)
  | note s o n => exact State.notify_latched _ _ _ _ hf
  | latch s g _ => exact Attention.latch_keeps _ _ _ hf
  | _ => exact hf

/-! ## Stations keep their configured fields -/

theorem StationsFollow.map_eq {α : Type} (f : Station → α) (hf : ∀ r q : Station, r.sameConfig q → f q = f r) {rs qs : List Station}
    (h : StationsFollow sc rs qs) : qs.map f = rs.map f := by
  induction h with
  | nil => rfl
  | cons hx _ ih => rw [List.map_cons, List.map_cons, ih, hf _ _ hx.1]

theorem Station.sameConfig.config {r q : Station} (h : r.sameConfig q) : q.config = r.config := by
  obtain ⟨h1, h2, h3, h4, h5, h6, h7, h8, h9⟩ := h
  simp [Station.config, h1, h2, h3, h4, h5, h6, h7, h8, h9]

theorem Touch.config (h : Touch sc s t) : t.stations.map Station.config = s.stations.map Station.config := by
  induction h with
  | trans _ _ ih1 ih2 => exact ih2.trans ih1
  | note s o n => simp
  | stations s xs hx => exact hx.map_eq Station.config fun _ _ h => h.config
  | _ => rfl

theorem Touch.defined (h : Touch sc s t) (l : Fin 8) : (t.line? l).isSome = (s.line? l).isSome := by
  induction h with
  | trans _ _ ih1 ih2 => exact ih2.trans ih1
  | note s o n => rw [State.notify_line?]
  | line s l' ln ln' _ hx _ =>
    by_cases e : l' = l
    · subst e; rw [hx]; simp [State.line?, State.setLine]
    · have : (l'.val = l.val) = False := by simp [Fin.val_inj, e]
      simp [State.line?, State.setLine, this]
  | _ => rfl

/-! ## Out of scope -/

theorem Touch.otherLine (h : Touch sc s t) (l : Fin 8) (hl : ¬sc.line l) :
    t.line? l = s.line? l ∧ t.store[l] = s.store[l] ∧ t.lastStoppage[l] = s.lastStoppage[l] ∧ t.periodCounter[l] = s.periodCounter[l] := by
  have ne : ∀ l' : Fin 8, sc.line l' → (l'.val = l.val) = False := fun l' h' => by
    simp only [Fin.val_inj, eq_iff_iff, iff_false]; rintro rfl; exact hl h'
  induction h with
  | trans _ _ ih1 ih2 => exact ⟨ih2.1.trans ih1.1, ih2.2.1.trans ih1.2.1, ih2.2.2.1.trans ih1.2.2.1, ih2.2.2.2.trans ih1.2.2.2⟩
  | note s o n => exact ⟨State.notify_line? _ _ _ _, by simp, by simp, by simp⟩
  | line s l' ln ln' h' _ _ => exact ⟨by simp [State.line?, State.setLine, ne l' h'], rfl, rfl, rfl⟩
  | stoppage s l' v h' => exact ⟨rfl, rfl, by simp [ne l' h'], rfl⟩
  | counter s l' v h' => exact ⟨rfl, rfl, rfl, by simp [ne l' h']⟩
  | place s l' r h' _ _ => exact ⟨rfl, by simp [ne l' h'], rfl, rfl⟩
  | _ => exact ⟨rfl, rfl, rfl, rfl⟩

theorem Touch.otherLink (h : Touch sc s t) (k : Fin 4) (hk : ¬sc.link k) : t.link k = s.link k := by
  induction h with
  | trans _ _ ih1 ih2 => exact ih2.trans ih1
  | note s o n => unfold State.link; simp
  | link s k' L h' _ =>
    have : (k'.val = k.val) = False := by
      simp only [Fin.val_inj, eq_iff_iff, iff_false]; rintro rfl; exact hk h'
    simp [State.link, this]
  | _ => rfl

theorem Touch.otherTrigger (h : Touch sc s t) (k : Fin 8) (hk : ¬sc.trigger k) : t.trigger k = s.trigger k := by
  induction h with
  | trans _ _ ih1 ih2 => exact ih2.trans ih1
  | note s o n => unfold State.trigger; simp
  | trigger s k' L h' _ =>
    have : (k'.val = k.val) = False := by
      simp only [Fin.val_inj, eq_iff_iff, iff_false]; rintro rfl; exact hk h'
    simp [State.trigger, this]
  | _ => rfl

/-- Attention enables and the NOTICE mode are the Attention Unit's alone. -/
theorem Touch.attention (h : Touch sc s t) : t.attention.enables = s.attention.enables ∧ t.attention.mode = s.attention.mode := by
  induction h with
  | trans _ _ ih1 ih2 => exact ⟨ih2.1.trans ih1.1, ih2.2.trans ih1.2⟩
  | note s o n =>
    unfold State.notify
    split
    · exact ⟨rfl, rfl⟩
    · split <;> exact ⟨rfl, rfl⟩
  | _ => exact ⟨rfl, rfl⟩

end

end Sys2Proof.Machine
end

