-- ==== Sys2Proof/WellFormed.lean ====
section
/-! DEFINITION. Which commands the outside can form: a frame's payload has at most 256 bytes (R181),
and a station number is 0 to 95 (00_scope.md 3.1). Every other operand is in range by its type. -/

namespace Sys2Proof

/-- The payload of a host request, if the command is one. -/
def Instr.payload? : Instr → Option (List Byte)
  | .defineLine p | .undefineLine p | .enrollStation p | .removeStation p | .bypassStation p | .readStation p
  | .mapCause p | .unmapCause p | .readMap p
  | .declareLineMode p | .readLineStatus p
  | .setRate p
  | .closePeriod p | .listClosed p | .readClosed p | .releaseClosed p | .readOpen p
  | .loadClock p | .stepClock p | .readClock p | .armTrigger p | .disarmTrigger p | .readTriggers p
  | .setLink p | .readLinkStats p
  | .setRehearse p | .injectReport p
  | .takeNotices p | .setNoticeMask p | .setWatermark p | .readAttention p | .clearAttention p | .setAttention p
  | .commit p | .suspend p | .lineReset p | .identify p | .restart p => some p
  | .hostByteReceived _ | .hostCharacterGapExpiry | .responseSent | .resetPin | .startUpEnd _ _
  | .runClockTick | .plantSecondAdvance | .plantClockLimit
  | .triggerExpiry _ | .ageLimit _ | .promotionExpiry _ | .confirmationExpiry _ | .longStopExpiry _
  | .durationCapExpiry _ | .allowanceExpiry _ | .windowExpiry _ | .gapExpiry _
  | .roundStart _ | .idleCheckExpiry _ | .skippedBusy _ | .pollSent _ | .replyWaitExpiry _ | .replyReceived _ _
  | .replyGapExpiry _ | .resetRelease | .replyCharacterReceived _ _ => none

/-- The station number of a command that names a station by number. -/
def Instr.station? : Instr → Option Nat
  | .gapExpiry n => some n
  | .defineLine _ | .undefineLine _ | .enrollStation _ | .removeStation _ | .bypassStation _ | .readStation _
  | .mapCause _ | .unmapCause _ | .readMap _
  | .declareLineMode _ | .readLineStatus _
  | .setRate _
  | .closePeriod _ | .listClosed _ | .readClosed _ | .releaseClosed _ | .readOpen _
  | .loadClock _ | .stepClock _ | .readClock _ | .armTrigger _ | .disarmTrigger _ | .readTriggers _
  | .setLink _ | .readLinkStats _
  | .setRehearse _ | .injectReport _
  | .takeNotices _ | .setNoticeMask _ | .setWatermark _ | .readAttention _ | .clearAttention _ | .setAttention _
  | .commit _ | .suspend _ | .lineReset _ | .identify _ | .restart _
  | .hostByteReceived _ | .hostCharacterGapExpiry | .responseSent | .resetPin | .startUpEnd _ _
  | .runClockTick | .plantSecondAdvance | .plantClockLimit
  | .triggerExpiry _ | .ageLimit _ | .promotionExpiry _ | .confirmationExpiry _ | .longStopExpiry _
  | .durationCapExpiry _ | .allowanceExpiry _ | .windowExpiry _
  | .roundStart _ | .idleCheckExpiry _ | .skippedBusy _ | .pollSent _ | .replyWaitExpiry _ | .replyReceived _ _
  | .replyGapExpiry _ | .resetRelease | .replyCharacterReceived _ _ => none

/-- The command can be formed: see this file's heading. -/
def Instr.wellFormed (i : Instr) : Bool :=
  (i.payload?.all fun p => p.length ≤ 256) && (i.station?.all fun n => n < 96)

end Sys2Proof
end

