-- ==== Sys2Proof/Laws/PerInstr.lean ====
section
/-! SUPPORT. Facts about each command as syntax: a command that carries a payload is a row of the table of requests (section 11.6), whose kind has
the top bit clear (R183), and every length it accepts fits a frame (R181). -/

namespace Sys2Proof.Laws.Payload

open Sys2Proof.Machine

/-- A command carries a payload exactly when it is a request; then it carries the request's, under a kind below 80h, and it can be formed with a
payload of each accepted length. -/
def Statement (i : Instr) : Prop :=
  i.payload? = (requestForm i).map (·.2.2)
    ∧ (requestForm i).all (fun f => f.1.toNat < 128 && f.2.1.all fun n => n ≤ 256) = true
    ∧ (i.payload?.isSome → i.station? = none)

theorem defineLine (payload : List Byte) : Statement (.defineLine payload) := ⟨rfl, rfl, fun _ => rfl⟩
theorem undefineLine (payload : List Byte) : Statement (.undefineLine payload) := ⟨rfl, rfl, fun _ => rfl⟩
theorem enrollStation (payload : List Byte) : Statement (.enrollStation payload) := ⟨rfl, rfl, fun _ => rfl⟩
theorem removeStation (payload : List Byte) : Statement (.removeStation payload) := ⟨rfl, rfl, fun _ => rfl⟩
theorem bypassStation (payload : List Byte) : Statement (.bypassStation payload) := ⟨rfl, rfl, fun _ => rfl⟩
theorem readStation (payload : List Byte) : Statement (.readStation payload) := ⟨rfl, rfl, fun _ => rfl⟩
theorem mapCause (payload : List Byte) : Statement (.mapCause payload) := ⟨rfl, rfl, fun _ => rfl⟩
theorem unmapCause (payload : List Byte) : Statement (.unmapCause payload) := ⟨rfl, rfl, fun _ => rfl⟩
theorem readMap (payload : List Byte) : Statement (.readMap payload) := ⟨rfl, rfl, fun _ => rfl⟩
theorem declareLineMode (payload : List Byte) : Statement (.declareLineMode payload) := ⟨rfl, rfl, fun _ => rfl⟩
theorem readLineStatus (payload : List Byte) : Statement (.readLineStatus payload) := ⟨rfl, rfl, fun _ => rfl⟩
theorem setRate (payload : List Byte) : Statement (.setRate payload) := ⟨rfl, rfl, fun _ => rfl⟩
theorem closePeriod (payload : List Byte) : Statement (.closePeriod payload) := ⟨rfl, rfl, fun _ => rfl⟩
theorem listClosed (payload : List Byte) : Statement (.listClosed payload) := ⟨rfl, rfl, fun _ => rfl⟩
theorem readClosed (payload : List Byte) : Statement (.readClosed payload) := ⟨rfl, rfl, fun _ => rfl⟩
theorem releaseClosed (payload : List Byte) : Statement (.releaseClosed payload) := ⟨rfl, rfl, fun _ => rfl⟩
theorem readOpen (payload : List Byte) : Statement (.readOpen payload) := ⟨rfl, rfl, fun _ => rfl⟩
theorem loadClock (payload : List Byte) : Statement (.loadClock payload) := ⟨rfl, rfl, fun _ => rfl⟩
theorem stepClock (payload : List Byte) : Statement (.stepClock payload) := ⟨rfl, rfl, fun _ => rfl⟩
theorem readClock (payload : List Byte) : Statement (.readClock payload) := ⟨rfl, rfl, fun _ => rfl⟩
theorem armTrigger (payload : List Byte) : Statement (.armTrigger payload) := ⟨rfl, rfl, fun _ => rfl⟩
theorem disarmTrigger (payload : List Byte) : Statement (.disarmTrigger payload) := ⟨rfl, rfl, fun _ => rfl⟩
theorem readTriggers (payload : List Byte) : Statement (.readTriggers payload) := ⟨rfl, rfl, fun _ => rfl⟩
theorem setLink (payload : List Byte) : Statement (.setLink payload) := ⟨rfl, rfl, fun _ => rfl⟩
theorem readLinkStats (payload : List Byte) : Statement (.readLinkStats payload) := ⟨rfl, rfl, fun _ => rfl⟩
theorem setRehearse (payload : List Byte) : Statement (.setRehearse payload) := ⟨rfl, rfl, fun _ => rfl⟩
theorem injectReport (payload : List Byte) : Statement (.injectReport payload) := ⟨rfl, rfl, fun _ => rfl⟩
theorem takeNotices (payload : List Byte) : Statement (.takeNotices payload) := ⟨rfl, rfl, fun _ => rfl⟩
theorem setNoticeMask (payload : List Byte) : Statement (.setNoticeMask payload) := ⟨rfl, rfl, fun _ => rfl⟩
theorem setWatermark (payload : List Byte) : Statement (.setWatermark payload) := ⟨rfl, rfl, fun _ => rfl⟩
theorem readAttention (payload : List Byte) : Statement (.readAttention payload) := ⟨rfl, rfl, fun _ => rfl⟩
theorem clearAttention (payload : List Byte) : Statement (.clearAttention payload) := ⟨rfl, rfl, fun _ => rfl⟩
theorem setAttention (payload : List Byte) : Statement (.setAttention payload) := ⟨rfl, rfl, fun _ => rfl⟩
theorem commit (payload : List Byte) : Statement (.commit payload) := ⟨rfl, rfl, fun _ => rfl⟩
theorem suspend (payload : List Byte) : Statement (.suspend payload) := ⟨rfl, rfl, fun _ => rfl⟩
theorem lineReset (payload : List Byte) : Statement (.lineReset payload) := ⟨rfl, rfl, fun _ => rfl⟩
theorem identify (payload : List Byte) : Statement (.identify payload) := ⟨rfl, rfl, fun _ => rfl⟩
theorem restart (payload : List Byte) : Statement (.restart payload) := ⟨rfl, rfl, fun _ => rfl⟩
theorem hostByteReceived (b : Byte) : Statement (.hostByteReceived b) := ⟨rfl, rfl, fun h => nomatch h⟩
theorem hostCharacterGapExpiry : Statement .hostCharacterGapExpiry := ⟨rfl, rfl, fun h => nomatch h⟩
theorem responseSent : Statement .responseSent := ⟨rfl, rfl, fun h => nomatch h⟩
theorem resetPin : Statement .resetPin := ⟨rfl, rfl, fun h => nomatch h⟩
theorem startUpEnd (rate1 rate0 : Bool) : Statement (.startUpEnd rate1 rate0) := ⟨rfl, rfl, fun h => nomatch h⟩
theorem runClockTick : Statement .runClockTick := ⟨rfl, rfl, fun h => nomatch h⟩
theorem plantSecondAdvance : Statement .plantSecondAdvance := ⟨rfl, rfl, fun h => nomatch h⟩
theorem plantClockLimit : Statement .plantClockLimit := ⟨rfl, rfl, fun h => nomatch h⟩
theorem triggerExpiry (trigger : Fin 8) : Statement (.triggerExpiry trigger) := ⟨rfl, rfl, fun h => nomatch h⟩
theorem ageLimit (line : Fin 8) : Statement (.ageLimit line) := ⟨rfl, rfl, fun h => nomatch h⟩
theorem promotionExpiry (line : Fin 8) : Statement (.promotionExpiry line) := ⟨rfl, rfl, fun h => nomatch h⟩
theorem confirmationExpiry (line : Fin 8) : Statement (.confirmationExpiry line) := ⟨rfl, rfl, fun h => nomatch h⟩
theorem longStopExpiry (line : Fin 8) : Statement (.longStopExpiry line) := ⟨rfl, rfl, fun h => nomatch h⟩
theorem durationCapExpiry (line : Fin 8) : Statement (.durationCapExpiry line) := ⟨rfl, rfl, fun h => nomatch h⟩
theorem allowanceExpiry (line : Fin 8) : Statement (.allowanceExpiry line) := ⟨rfl, rfl, fun h => nomatch h⟩
theorem windowExpiry (line : Fin 8) : Statement (.windowExpiry line) := ⟨rfl, rfl, fun h => nomatch h⟩
theorem gapExpiry (station : Nat) : Statement (.gapExpiry station) := ⟨rfl, rfl, fun h => nomatch h⟩
theorem roundStart (link : Fin 4) : Statement (.roundStart link) := ⟨rfl, rfl, fun h => nomatch h⟩
theorem idleCheckExpiry (link : Fin 4) : Statement (.idleCheckExpiry link) := ⟨rfl, rfl, fun h => nomatch h⟩
theorem skippedBusy (link : LinkLevel) : Statement (.skippedBusy link) := ⟨rfl, rfl, fun h => nomatch h⟩
theorem pollSent (link : Fin 4) : Statement (.pollSent link) := ⟨rfl, rfl, fun h => nomatch h⟩
theorem replyWaitExpiry (link : Fin 4) : Statement (.replyWaitExpiry link) := ⟨rfl, rfl, fun h => nomatch h⟩
theorem replyReceived (link : Fin 4) (last : Pair Byte) : Statement (.replyReceived link last) := ⟨rfl, rfl, fun h => nomatch h⟩
theorem replyGapExpiry (link : Fin 4) : Statement (.replyGapExpiry link) := ⟨rfl, rfl, fun h => nomatch h⟩
theorem resetRelease : Statement .resetRelease := ⟨rfl, rfl, fun h => nomatch h⟩
theorem replyCharacterReceived (link : Fin 4) (edge : CharEdge) : Statement (.replyCharacterReceived link edge) := ⟨rfl, rfl, fun h => nomatch h⟩

end Sys2Proof.Laws.Payload
end

