-- ==== Sys2Proof/Laws/Steps.lean ====
section
/-! SUPPORT. What a step can do, said once: a request's block makes one of the changes of `Settles`; an event makes the changes of
Laws/Touch.lean or moves a clock or a phase of start-up; what holds across these holds across every step. -/

namespace Sys2Proof.Machine

/-! ## Blocks -/

/-- What a request's block can do to the state. -/
inductive Settles : State → State → Prop
  | touch {s t} : Touch .running s t → Settles s t
  | define (s) (l : Fin 8) (d : LineDef) : s.partState = .configuring → Settles s (s.setLine l (some (Line.defined d)))
  | undefine (s) (l : Fin 8) : s.partState = .configuring → s.stations.any (·.line == l) = false → Settles s (s.setLine l none)
  | enroll (s) (r : Station) : s.partState = .configuring → (s.line? r.line).isSome → r.inRange → collision s.stations r = none →
      enrolledOn s.stations r.link < 24 → Settles s { s with stations := insertStation r s.stations }
  | remove (s) (n : Nat) : s.partState = .configuring → Settles s { s with stations := s.stations.eraseP fun r => r.number == n }
  | bypass {s t} (n : Nat) (b : Bool) : Touch .running (s.updStation n fun q => { q with bypassed := b }) t → Settles s t
  | replace (s) (e : CauseEntry) : e.inRange →
      Settles s { s with causeMap := modifyFirst (·.sameKey e) (fun _ => e) s.causeMap }
  | add (s) (e : CauseEntry) : e.inRange → s.causeMap.any (·.sameKey e) = false → s.causeMap.length < 512 →
      Settles s { s with causeMap := insertCause e s.causeMap }
  | unmap (s) (e : CauseEntry) : Settles s { s with causeMap := s.causeMap.eraseP (·.sameKey e) }
  | rate (s) (l : Fin 8) (ln : Line) (d : LineDef) : s.line? l = some ln →
      Settles s (s.setLine l (some { ln with defn := d, live := ln.live.map (·.rateChanged d s.runClock) }))
  | release (s) (l : Fin 8) (n : BitVec 32) : Settles s { s with store := s.store.set l (s.store[l].eraseP fun r => r.period.number == n) }
  | snapshot (s) (l : Fin 8) (lv : Live) : s.live? l = some lv → Settles s { s with snapshot := some (s.snapshotOf l lv) }
  | clock {s t} (c : PlantClock) : Touch .running { s with plant := some c } t → Settles s t
  | trigger (s) (k : Fin 8) (t : Trigger) : Settles s { s with triggers := s.triggers.set k t }
  | setLink (s) (k : Fin 4) (L : Link) : s.partState = .configuring →
      L.state = (s.link k).state ∧ L.round = (s.link k).round ∧ L.deadRounds = (s.link k).deadRounds ∧ L.busyRun = (s.link k).busyRun
        ∧ L.stats = (s.link k).stats → Settles s { s with links := s.links.set k L }
  | clearStats (s) (k : Fin 4) : Settles s (s.updLink k fun L => { L with stats := LinkStats.zero })
  | notices (s) (n : Nat) : 1 ≤ n → s.journal.queue ≠ [] → Settles s (s.dropNotices n).queueGap
  | mask (s) (m : BitVec 16) : m.getLsbD 15 = false → Settles s { s with journal := { s.journal with mask := m } }
  | watermark (s) (n : Nat) : 1 ≤ n → n ≤ 512 → Settles s { s with journal := { s.journal with watermark := n } }
  | clear (s) (f : AttentionSet) : Settles s { s with attention := s.attention.clear f s.journal.queue.isEmpty }
  | attention (s) (e : AttentionSet) (m : NoticeMode) :
      Settles s { s with attention := s.attention.set e m s.journal.queue.isEmpty }
  | commit (s) : s.partState = .configuring → s.configFault = none → Settles s s.enterMonitoring
  | suspend (s) : s.partState = .monitoring → Settles s s.suspendAll

theorem causeEntryOf_inRange {p : List Byte} {e : CauseEntry} (h : causeEntryOf p = some e) : e.inRange := by
  have h8 := u8_lt p 2
  unfold causeEntryOf causeKey stationKey at h
  unfold CauseEntry.inRange
  have hc : ∀ c : CauseClass, CauseClass.ofMapCode (u8 p 4) = some c → c ≠ .overrun ∧ c ≠ .planned := by
    intro c hc
    unfold CauseClass.ofMapCode at hc
    split at hc <;> simp_all <;> (subst hc; decide)
  split at h
  · rename_i k kind code cls hk hcls
    obtain ⟨h1, h2⟩ := hc _ hcls
    split at h
    · cases h
      split at hk
      · rename_i hs hkind
        split at hs
        · cases hs
          cases hk
          exact ⟨by assumption, by dsimp only; omega, by simp, by dsimp only; omega, by dsimp only; omega, h1, h2⟩
        · cases hs
      · rename_i hs hkind
        split at hs
        · cases hs
          split at hk
          · cases hk
          · cases hk
            exact ⟨by assumption, by dsimp only; omega, fun _ => by dsimp only; omega, by dsimp only; omega, by dsimp only; omega, h1, h2⟩
        · cases hs
      all_goals cases hk
    · cases h
  all_goals cases h

/-! ## Each block -/

theorem Settles.refl (s : State) : Settles s s := .touch (.refl s)

section
variable (p : List Byte) (s : State)

theorem defineLine_settles : Settles s (defineLine p s).1 := by
  unfold defineLine
  split
  · exact .refl s
  · rename_i hc
    split
    · exact .refl s
    · split
      · exact .refl s
      · exact .define s _ _ hc

theorem undefineLine_settles : Settles s (undefineLine p s).1 := by
  unfold undefineLine
  split
  · exact .refl s
  · rename_i hc
    split
    · exact .refl s
    · split
      · exact .refl s
      · split
        · exact .refl s
        · rename_i h; exact .undefine s _ hc (by simpa using h)

theorem enrollStation_settles : Settles s (enrollStation p s).1 := by
  unfold enrollStation
  dsimp only
  split
  · exact .refl s
  · rename_i hc
    split
    · rename_i k l hk hl hr
      split
      · exact .refl s
      · rename_i ln hln
        split
        · exact .refl s
        · rename_i hcol
          split
          · exact .refl s
          · rename_i h24
            refine .enroll s _ hc (by simp [Station.enrolled, hln]) ?_ hcol (by simpa [Station.enrolled] using h24)
            simp only [enrollInRange, Bool.and_eq_true, decide_eq_true_eq] at hr
            exact ⟨hr.1.1.1.1, hr.1.1.1.2.1, hr.1.1.1.2.2, hr.1.1.2.1, hr.1.1.2.2, hr.2.1, hr.2.2⟩
    · exact .refl s

theorem removeStation_settles : Settles s (removeStation p s).1 := by
  unfold removeStation
  dsimp only
  split
  · exact .refl s
  · rename_i hc
    split
    · exact .refl s
    · split
      · exact .refl s
      · exact .remove s _ hc

theorem bypassStation_settles : Settles s (bypassStation p s).1 := by
  unfold bypassStation
  dsimp only
  split
  · exact .refl s
  · split
    · exact .refl s
    · split
      · exact .refl s
      · split
        · exact .refl s
        · exact .bypass _ _ (.offerBypass trivial)

theorem readStation_settles : Settles s (readStation p s).1 := by
  unfold readStation
  dsimp only
  split
  · exact .refl s
  · split <;> exact .refl s

theorem mapCause_settles : Settles s (mapCause p s).1 := by
  unfold mapCause
  split
  · exact .refl s
  · rename_i e he
    split
    · exact .replace s e (causeEntryOf_inRange he)
    · rename_i hany
      split
      · exact .refl s
      · rename_i hlen
        exact .add s e (causeEntryOf_inRange he) (by simpa using hany) (by simpa [causeCapacity] using hlen)

theorem unmapCause_settles : Settles s (unmapCause p s).1 := by
  unfold unmapCause
  split
  · exact .refl s
  · split
    · exact .refl s
    · exact .unmap s _

theorem readMap_settles : Settles s (readMap p s).1 := by
  unfold readMap
  dsimp only
  split <;> exact .refl s

theorem declareLineMode_settles : Settles s (declareLineMode p s).1 := by
  unfold declareLineMode
  split
  · exact .refl s
  · split
    · exact .refl s
    · split
      · exact .refl s
      · split
        · exact .refl s
        · exact .touch (.declare trivial _)

theorem readLineStatus_settles : Settles s (readLineStatus p s).1 := by
  unfold readLineStatus
  split
  · exact .refl s
  · split <;> exact .refl s

theorem setRate_settles : Settles s (setRate p s).1 := by
  unfold setRate
  dsimp only
  split
  · exact .refl s
  · split
    · exact .refl s
    · split
      · exact .refl s
      · rename_i ln hln
        split
        · exact .refl s
        · split
          · exact .refl s
          · split
            · exact .refl s
            · split
              · exact .refl s
              · exact .rate s _ ln _ hln

theorem closePeriod_settles : Settles s (closePeriod p s).1 := by
  unfold closePeriod
  split
  · exact .refl s
  · split
    · exact .refl s
    · split
      · exact .refl s
      · split
        · exact .refl s
        · exact .touch (.closeLine trivial _)

theorem listClosed_settles : Settles s (listClosed p s).1 := by
  unfold listClosed
  split <;> exact .refl s

theorem readClosed_settles : Settles s (readClosed p s).1 := by
  unfold readClosed
  dsimp only
  split
  · exact .refl s
  · split
    · exact .refl s
    · split
      · exact .refl s
      · split <;> exact .refl s

theorem releaseClosed_settles : Settles s (releaseClosed p s).1 := by
  unfold releaseClosed
  dsimp only
  split
  · exact .refl s
  · split
    · exact .refl s
    · exact .release s _ _

theorem readOpen_settles : Settles s (readOpen p s).1 := by
  unfold readOpen
  dsimp only
  split
  · exact .refl s
  · split
    · exact .refl s
    · split
      · split
        · exact .refl s
        · split
          · exact .refl s
          · rename_i lv hlv
            exact .snapshot s _ lv hlv
      · split
        · exact .refl s
        · split
          · split <;> exact .refl s
          · exact .refl s

theorem loadClock_settles : Settles s (loadClock p s).1 := by
  unfold loadClock
  dsimp only
  split
  · exact .clock _ (.refl _)
  · exact .clock _ (.movePlant (fun _ => trivial) (fun _ => trivial) _ _)

theorem stepClock_settles : Settles s (stepClock p s).1 := by
  unfold stepClock
  dsimp only
  split
  · exact .refl s
  · split
    · exact .refl s
    · split
      · exact .refl s
      · split
        · exact .refl s
        · exact .clock _ (.movePlant (fun _ => trivial) (fun _ => trivial) _ _)

theorem armTrigger_settles : Settles s (armTrigger p s).1 := by
  unfold armTrigger
  split
  · split
    · exact .refl s
    · split
      · exact .refl s
      · exact .trigger s _ _
  all_goals exact .refl s

theorem disarmTrigger_settles : Settles s (disarmTrigger p s).1 := by
  unfold disarmTrigger
  split
  · exact .refl s
  · exact .trigger s _ _

theorem setLink_settles : Settles s (setLink p s).1 := by
  unfold setLink
  split
  · exact .refl s
  · rename_i hc
    split
    · exact .refl s
    · split
      · exact .setLink s _ _ hc ⟨rfl, rfl, rfl, rfl, rfl⟩
      all_goals exact .refl s

theorem readLinkStats_settles : Settles s (readLinkStats p s).1 := by
  unfold readLinkStats
  split
  · exact .refl s
  · split
    · exact .refl s
    · split
      · exact .clearStats s _
      · exact .refl s

theorem setRehearse_settles : Settles s (setRehearse p s).1 := by
  unfold setRehearse
  split
  · exact .refl s
  · split
    · split
      · exact .refl s
      · split
        · exact .refl s
        · exact .touch (.changeRehearsal trivial _)
    all_goals exact .refl s

theorem injectReport_settles : Settles s (injectReport p s).1 := by
  unfold injectReport
  split
  · exact .refl s
  · split
    · split
      · exact .refl s
      · rename_i r hr
        have hh : s.holds .running r := ⟨(State.station?_number hr).symm ▸ hr, trivial⟩
        split
        · dsimp only
          split
          · exact .touch (.miss hh)
          · exact .touch (.goodReply hh _)
        · exact .refl s
    all_goals exact .refl s

theorem takeNotices_settles : Settles s (takeNotices p s).1 := by
  unfold takeNotices
  dsimp only
  split
  · exact .refl s
  · rename_i h1
    split
    · exact .refl s
    · rename_i h2
      exact .notices s _ (by omega) (by simpa using h2)

theorem setNoticeMask_settles : Settles s (setNoticeMask p s).1 := by
  unfold setNoticeMask
  split
  · exact .refl s
  · rename_i h
    exact .mask s _ (by rw [BitVec.getLsbD_ofNat]; simp [Nat.testBit, Nat.shiftRight_eq_div_pow]; omega)

theorem setWatermark_settles : Settles s (setWatermark p s).1 := by
  unfold setWatermark
  split
  · exact .refl s
  · exact .watermark s _ (by omega) (by omega)

theorem clearAttention_settles : Settles s (clearAttention p s).1 := by
  unfold clearAttention
  split
  · exact .refl s
  · exact .clear s _

theorem setAttention_settles : Settles s (setAttention p s).1 := by
  unfold setAttention
  split
  · exact .refl s
  · split
    · exact .refl s
    · exact .attention s _ _

theorem commit_settles : Settles s (commitReq p s).1 := by
  unfold commitReq
  split
  · exact .refl s
  · rename_i hc
    split
    · exact .refl s
    · rename_i hf
      dsimp only
      exact .commit s hc hf

theorem suspend_settles : Settles s (suspendReq p s).1 := by
  unfold suspendReq
  split
  · exact .refl s
  · rename_i hc
    dsimp only
    exact .suspend s hc

theorem lineReset_settles : Settles s (lineResetReq p s).1 := by
  have h : ∀ l, Settles s ((s.closeLine l .lineReset).resetLine l) := fun l => .touch (.closeReset trivial _)
  unfold lineResetReq
  split
  · exact .refl s
  · split
    · exact .refl s
    · split
      · exact .refl s
      · dsimp only
        exact h _

end

/-- A request's block makes one of the changes of `Settles`. -/
theorem Settles.request (i : Instr) (p : List Byte) (s : State) : Settles s (requestBlock i p s).1 := by
  cases i with
  | defineLine => exact defineLine_settles p s
  | undefineLine => exact undefineLine_settles p s
  | enrollStation => exact enrollStation_settles p s
  | removeStation => exact removeStation_settles p s
  | bypassStation => exact bypassStation_settles p s
  | readStation => exact readStation_settles p s
  | mapCause => exact mapCause_settles p s
  | unmapCause => exact unmapCause_settles p s
  | readMap => exact readMap_settles p s
  | declareLineMode => exact declareLineMode_settles p s
  | readLineStatus => exact readLineStatus_settles p s
  | setRate => exact setRate_settles p s
  | closePeriod => exact closePeriod_settles p s
  | listClosed => exact listClosed_settles p s
  | readClosed => exact readClosed_settles p s
  | releaseClosed => exact releaseClosed_settles p s
  | readOpen => exact readOpen_settles p s
  | loadClock => exact loadClock_settles p s
  | stepClock => exact stepClock_settles p s
  | armTrigger => exact armTrigger_settles p s
  | disarmTrigger => exact disarmTrigger_settles p s
  | setLink => exact setLink_settles p s
  | readLinkStats => exact readLinkStats_settles p s
  | setRehearse => exact setRehearse_settles p s
  | injectReport => exact injectReport_settles p s
  | takeNotices => exact takeNotices_settles p s
  | setNoticeMask => exact setNoticeMask_settles p s
  | setWatermark => exact setWatermark_settles p s
  | clearAttention => exact clearAttention_settles p s
  | setAttention => exact setAttention_settles p s
  | commit => exact commit_settles p s
  | suspend => exact suspend_settles p s
  | lineReset => exact lineReset_settles p s
  | _ => exact .refl s

/-- A frame that names a request is that request. -/
theorem requestTable_row {row : Byte × (List Byte → State → State)} (h : row ∈ requestTable) (p : List Byte) :
    ∃ i lengths, requestForm i = some (row.1, lengths, p) ∧ ∀ s, row.2 p s = s.request row.1 lengths (requestBlock i) p := by
  simp only [requestTable, List.cons_append, List.nil_append, List.mem_cons, List.not_mem_nil, or_false] at h
  rcases h with rfl | rfl | rfl | rfl | rfl | rfl | rfl | rfl | rfl | rfl | rfl | rfl | rfl | rfl | rfl | rfl | rfl | rfl | rfl | rfl
    | rfl | rfl | rfl | rfl | rfl | rfl | rfl | rfl | rfl | rfl | rfl | rfl | rfl | rfl | rfl | rfl | rfl | rfl
  · exact ⟨.defineLine p, _, rfl, fun _ => rfl⟩
  · exact ⟨.undefineLine p, _, rfl, fun _ => rfl⟩
  · exact ⟨.enrollStation p, _, rfl, fun _ => rfl⟩
  · exact ⟨.removeStation p, _, rfl, fun _ => rfl⟩
  · exact ⟨.setLink p, _, rfl, fun _ => rfl⟩
  · exact ⟨.commit p, _, rfl, fun _ => rfl⟩
  · exact ⟨.declareLineMode p, _, rfl, fun _ => rfl⟩
  · exact ⟨.setRate p, _, rfl, fun _ => rfl⟩
  · exact ⟨.closePeriod p, _, rfl, fun _ => rfl⟩
  · exact ⟨.setRehearse p, _, rfl, fun _ => rfl⟩
  · exact ⟨.injectReport p, _, rfl, fun _ => rfl⟩
  · exact ⟨.lineReset p, _, rfl, fun _ => rfl⟩
  · exact ⟨.suspend p, _, rfl, fun _ => rfl⟩
  · exact ⟨.bypassStation p, _, rfl, fun _ => rfl⟩
  · exact ⟨.readStation p, _, rfl, fun _ => rfl⟩
  · exact ⟨.readLineStatus p, _, rfl, fun _ => rfl⟩
  · exact ⟨.mapCause p, _, rfl, fun _ => rfl⟩
  · exact ⟨.unmapCause p, _, rfl, fun _ => rfl⟩
  · exact ⟨.readMap p, _, rfl, fun _ => rfl⟩
  · exact ⟨.loadClock p, _, rfl, fun _ => rfl⟩
  · exact ⟨.stepClock p, _, rfl, fun _ => rfl⟩
  · exact ⟨.readClock p, _, rfl, fun _ => rfl⟩
  · exact ⟨.armTrigger p, _, rfl, fun _ => rfl⟩
  · exact ⟨.disarmTrigger p, _, rfl, fun _ => rfl⟩
  · exact ⟨.readTriggers p, _, rfl, fun _ => rfl⟩
  · exact ⟨.readLinkStats p, _, rfl, fun _ => rfl⟩
  · exact ⟨.listClosed p, _, rfl, fun _ => rfl⟩
  · exact ⟨.readClosed p, _, rfl, fun _ => rfl⟩
  · exact ⟨.releaseClosed p, _, rfl, fun _ => rfl⟩
  · exact ⟨.readOpen p, _, rfl, fun _ => rfl⟩
  · exact ⟨.takeNotices p, _, rfl, fun _ => rfl⟩
  · exact ⟨.setNoticeMask p, _, rfl, fun _ => rfl⟩
  · exact ⟨.setWatermark p, _, rfl, fun _ => rfl⟩
  · exact ⟨.readAttention p, _, rfl, fun _ => rfl⟩
  · exact ⟨.clearAttention p, _, rfl, fun _ => rfl⟩
  · exact ⟨.setAttention p, _, rfl, fun _ => rfl⟩
  · exact ⟨.identify p, _, rfl, fun _ => rfl⟩
  · exact ⟨.restart p, _, rfl, fun _ => rfl⟩

/-- What holds across each block, each event, a reset, and any change of the Host Link Controller or of the queue, holds across every step:
the bytes of the host link bring frames, each of which is a request or is answered UNKNOWN_KIND. -/
theorem step_keeps {P : State → Prop}
    (host : ∀ s h, P s → P { s with host := h })
    (queue : ∀ s q, P s → P { s with pending := q })
    (block : ∀ i kind lengths p s, requestForm i = some (kind, lengths, p) → p.length ∈ lengths → P s → P (requestBlock i p s).1)
    (event : ∀ i s t, requestForm i = none → carriesAny i = false → exec i s = .next t → P s → P t)
    (reset : ∀ s phase, P s → P (s.afterReset phase)) {s t : State} (h : P s) (hs : step s = .next t) : P t := by
  have request : ∀ i kind lengths p s, requestForm i = some (kind, lengths, p) → P s →
      P (s.request kind lengths (requestBlock i) p) := fun i kind lengths p s hi hP =>
    State.request_cases (P := P) hP (host _ _ hP) (fun r => host _ _ hP) fun hl => host _ _ (block i _ _ p s hi hl hP)
  have frames : ∀ (fs : List (Byte × List Byte)) s, P s → P (fs.foldl State.takeFrame s) := by
    intro fs
    induction fs with
    | nil => exact fun s h => h
    | cons f fs ih =>
      refine fun s h => ih _ ?_
      unfold State.takeFrame
      split
      · rename_i row hr
        obtain ⟨i, lengths, h1, h2⟩ := requestTable_row (List.mem_of_find?_eq_some hr) f.2
        rw [h2]
        exact request i _ _ _ s h1 h
      · unfold hostUnknownKind
        split <;> exact host _ _ h
  have receive : ∀ s gap bytes, P s → P (s.receive gap bytes) := fun s gap bytes h => frames _ _ (host _ _ h)
  have command : ∀ i s t, P s → exec i s = .next t → P t := by
    intro i s t h he
    cases hf : requestForm i with
    | some f =>
      obtain ⟨kind, lengths, p⟩ := f
      rw [exec_request hf] at he
      cases he
      exact request i _ _ _ s hf h
    | none =>
      cases hc : carriesAny i with
      | false => exact event i s t hf hc he h
      | true =>
        cases i <;> first | (cases hc; done) | skip
        · cases he
          unfold State.takeHostByte
          split
          · exact h
          · exact receive _ _ _ h
          · exact receive _ _ _ h
        · cases he
          unfold State.takeHostGap
          split
          · exact h
          · exact h
          · exact receive _ _ _ h
        · cases he
          unfold State.takeResponseSent
          split
          · exact h
          · split
            · exact reset _ _ h
            · exact host _ _ h
        · cases he
          exact reset _ _ h
  unfold step at hs
  split at hs
  · exact command _ _ _ (queue _ _ h) hs
  · cases hs; exact h

/-- The commands of the clock and the phases of start-up are the only events that are not the changes of Laws/Touch.lean. -/
theorem event_touch {i : Instr} {s t : State} (hf : requestForm i = none) (hc : carriesAny i = false) (he : exec i s = .next t) :
    Touch .running s t ∨ i = .runClockTick ∨ i = .plantSecondAdvance ∨ i = .plantClockLimit ∨ i = .resetRelease ∨ ∃ a b, i = .startUpEnd a b := by
  have hl : ∀ l, Scope.running.line l := fun _ => trivial
  have hk : ∀ k, Scope.running.link k := fun _ => trivial
  have hj : ∀ k, Scope.running.trigger k := fun _ => trivial
  cases i <;> first | (cases hf; done) | (cases hc; done) | skip
  all_goals cases he
  case startUpEnd a b => simp
  case runClockTick => simp
  case plantSecondAdvance => simp
  case plantClockLimit => simp
  case resetRelease => simp
  all_goals left
  · exact .takeTriggerExpiry hl (hj _)
  · exact .takeAgeLimit (hl _)
  · exact .promote (hl _)
  · exact .confirmRestart (hl _)
  · exact .takeLongStop (hl _)
  · exact .takeCap (hl _)
  · exact .takeAllowance (hl _)
  · exact .completeWindow (hl _)
  · exact .takeGapExpiry _ fun _ _ => trivial
  · exact .takeRoundStart (hk _)
  · exact .takeIdleCheck (hk _)
  · exact .takeBusy (hk _) _
  · exact .takePollSent (hk _)
  · exact .takeReplyWait hl (hk _)
  · exact .takeReply hl (hk _) _
  · exact .takeReplyGap hl (hk _)
  · exact .takeReplyChar (hk _) _

/-- What holds across each change of a block, each move of a clock or phase, a reset, and any change of the Host Link Controller or of the
queue, holds across every step. -/
theorem step_keeps_of_settles {P : State → Prop}
    (host : ∀ s h, P s → P { s with host := h })
    (queue : ∀ s q, P s → P { s with pending := q })
    (settles : ∀ s t, Settles s t → P s → P t)
    (clock : ∀ s c, P s → P { s with runClock := c })
    (plant : ∀ s c, P s → P { s with plant := c })
    (phase : ∀ s c, P s → P { s with resetPhase := c })
    (reset : ∀ s phase, P s → P (s.afterReset phase)) {s t : State} (h : P s) (hs : step s = .next t) :
    P t := by
  refine step_keeps host queue (fun i _ _ p s _ _ h => settles _ _ (.request i p s) h) ?_ reset h hs
  intro i s t hf hc he h
  rcases event_touch hf hc he with ht | rfl | rfl | rfl | rfl | ⟨a, b, rfl⟩
  · exact settles _ _ (.touch ht) h
  · cases he; unfold State.tickRunClock; split
    · exact h
    · exact clock _ _ h
    · exact clock _ _ h
  · cases he; unfold State.advancePlant; split
    · exact h
    · split
      · exact plant _ _ h
      · exact h
  · cases he; unfold State.limitPlant; split
    · exact h
    · split
      · exact plant _ _ h
      · exact h
  · cases he; unfold State.takeRelease; split
    · exact phase _ _ h
    · exact h
    · exact h
  · cases he; unfold State.takeStartUpEnd; split
    · have := phase _ .running (host _ { s.host with receiver := .hunting, rate1 := a, rate0 := b } h)
      exact this
    · exact h
    · exact h

end Sys2Proof.Machine
end

