-- ==== Sys2Proof/Tests/Slice0.lean ====
section
/-! SUPPORT. The model's own tests: small states from the helpers below, and for each statement the values that meet its hypotheses, clause by
clause, most with what the command then does. -/

namespace Sys2Proof.Tests

open Sys2Proof.Machine

/-! ## Helpers -/

/-- The state after a command. -/
def after (i : Instr) (s : State) : State :=
  match exec i s with
  | .next t => t
  | .fault _ | .refused _ => s

/-- The result code of the response being sent. -/
def result (s : State) : Option ResultCode := s.host.sending.map (·.result)

/-- The result that a request is answered with. -/
def answer (i : Instr) (s : State) : Option ResultCode := result (after i s)

/-- The payload of a response that is not OK. -/
def payload (i : Instr) (s : State) : List Nat := (((after i s).host.sending.map (·.payload)).getD []).map (·.toNat)

def bytes (l : List Nat) : List Byte := l.map (BitVec.ofNat 8)

/-- The part after start-up, with nothing configured. -/
def running : State := { State.reset with resetPhase := .running, host := { HostLink.reset with receiver := .hunting } }

/-- The part while a response is being sent. -/
def busy : State := running.respond 0x3E#8 .ok

def definition : LineDef :=
  { initialProduct := 7, promotion := 3000, longStop := 90000, confirmation := 1000, windowSeconds := 15, declarePct := 90
    clearPct := 95, declareWindows := 3, clearWindows := 2, nominalRate := 600 }

/-- Station `n` of line 0 on link 0, at the address and position `n`, of given roles. -/
def station (n roles : Nat) : Station := Station.enrolled n 0 n 0 n roles 600

/-- Line 0 with a filler (the constraint) and a labeller (the finish), in CONFIGURING. -/
def configured : State :=
  { running with lines := running.lines.set 0 (some (Line.defined definition)), stations := [station 1 1, station 2 2] }

def period : Period := Period.opened 0 1#32 0#32 none false false false 7 [station 1 1, station 2 2]

/-- The live state of line 0 in a condition, since the tick 0. -/
def live (c : Condition) : Live :=
  { condition := c, lastChange := 0#32, allowanceExpiry := none, rate := RateState.initial, period := period
    ageLimit := 60480000#32 }

def lineIn (m : Mode) (lv : Live) : Line := { Line.defined definition with mode := m, live := some lv }

/-- A station that reports a state. -/
def reporting (n roles : Nat) (st : ReportedState) : Station :=
  { station n roles with linkState := .reporting, reported := some st, accrualStart := some 0#32, lastApplied := some 0#32
                         baselines := some { infeed := 0#16, outfeed := 0#16, reject := 0#16 }
                         gap := some { expiry := 393216000#32, taken := false } }

/-- Line 0 in MONITORING, in a mode and with live state, at a tick. -/
def monitoring (m : Mode) (lv : Live) (t : Tick) : State :=
  { running with
    partState := .monitoring, runClock := t, lines := running.lines.set 0 (some (lineIn m lv))
    periodCounter := running.periodCounter.set 0 1#32, stations := [reporting 1 1 .run, reporting 2 2 .run] }

def scheduled (c : Condition) (t : Tick) : State := monitoring .scheduled (live c) t

def root : Root := { station := 1, cause := 5, cls := .equipment }

def candidate : Candidate := { start := 0#32, chargeStart := 0#32, carriedIn := false, root := root, promotion := 3000#32 }

def stoppage : Stoppage :=
  { number := 1#32, start := 0#32, startPlant := none, carriedIn := false, initial := root, root := root, segmentStart := 0#32
    segments := 1, longStop := some 90000#32, notified := false, cap := some 2147483647#32, capped := false }

def notice : Notice := { sequence := 0#16, line := none, tick := 0#32, plant := none, body := .gap 1 }

/-- The part with some notices queued and a gap count. -/
def queued (q : List Notice) (gap : Nat) : State := { running with journal := { Journal.reset with queue := q, gapCount := gap } }

/-- Link 0 at work on a slot of station 1. -/
def polling (st : LinkState) (phase : SlotPhase) (slots : List Nat) : State :=
  { scheduled .producing 100#32 with
    links := running.links.set 0 { Link.reset with
      state := st
      round := some { start := 0#32, slots := slots, next := 0, validSeen := false, phase := phase } } }

/-- A start bit and a character on the wires of a pair that is NORMAL. -/
def startBit : Pair Bool := { fnA := false, fnB := true }

def wires (b : Byte) : Pair Byte := { fnA := b, fnB := ~~~b }

/-- The link's wires are exchanged. -/
def swapped (s : State) : State := s.updLink 0 fun L => { L with polarity := .swapped }

/-- Line 0 rehearses. -/
def rehearsing (s : State) : State := s.updLine 0 fun ln => { ln with rehearsal := true }

theorem ready_running : running.ready := ⟨by decide, rfl⟩

theorem ready_of {s : State} (h : s.host = running.host) : s.ready := by
  unfold State.ready
  rw [h]
  exact ready_running

/-! ## Well-formed commands -/

theorem test_wellFormed_payload_of_256 : (Instr.identify (List.replicate 256 0#8)).wellFormed = true := by decide +kernel

theorem test_illFormed_payload_of_257 : (Instr.identify (List.replicate 257 0#8)).wellFormed = false := by decide +kernel

theorem test_wellFormed_station_95 : (Instr.gapExpiry 95).wellFormed = true := by decide

theorem test_illFormed_station_96 : (Instr.gapExpiry 96).wellFormed = false := by decide

/-! ## The queue -/

theorem test_step_takes_the_front :
    ∃ t, step { running with pending := [.runClockTick, .plantSecondAdvance] } = .next t ∧ t.runClock = 1#32
      ∧ t.pending = [.plantSecondAdvance] := ⟨_, rfl, by decide, by decide⟩

theorem test_no_word_spells_a_command : running.withFetchWord 8 0x3E = running := rfl

/-! ## Reset -/

theorem test_reset_release_startUp :
    (after .resetPin running).resetPhase = .held ∧ (after .resetRelease (after .resetPin running)).resetPhase = .startUp
      ∧ running.resetPhase ≠ .held ∧ running.resetPhase ≠ .startUp ∧ State.reset.resetPhase = .startUp := by decide

theorem test_startUpEnd_samples_the_pins :
    (after (.startUpEnd true false) State.reset).host.receiver = .hunting
      ∧ (after (.startUpEnd true false) State.reset).host.bitRate = 460800 := by decide

theorem test_restart_resets_at_the_end_of_its_response :
    (after .responseSent (after (.restart []) configured)).stations = []
      ∧ (after .responseSent (after (.identify []) configured)).stations = configured.stations := by decide

/-- The hypotheses of `ResetHoldsEveryBlock`. -/
theorem test_reset_is_held : (after .resetPin running).resetSound
    ∧ ∃ t, step { after .resetPin running with pending := [.runClockTick] } = .next t ∧ t.runClock = 0#32 :=
  ⟨fun _ => ⟨rfl, fun _ => rfl⟩, _, rfl, rfl⟩

/-! ## The host link -/

/-- The four clauses of `RequestIsLostDiscardedRefusedOrAnswered`. -/
theorem test_request_lost_discarded_refused_answered :
    requestForm (.setWatermark [0#8, 1#8]) = some (0x3A#8, [2], [0#8, 1#8])
      ∧ State.reset.host.receiver = .idle ∧ after (.setWatermark [0#8, 1#8]) State.reset = State.reset
      ∧ busy.host.receiver ≠ .idle ∧ busy.host.sending.isSome ∧ (after (.setWatermark [0#8, 1#8]) busy).host.overrun = true
      ∧ answer (.setWatermark [0#8]) running = some .badLength ∧ answer (.setWatermark [0#8, 1#8]) running = some .ok := by decide

/-- The clauses of `ReceiverHuntsAndCollects`. -/
theorem test_receiver :
    (after (.hostByteReceived 0#8) running).host.receiver = .hunting
      ∧ (after (.hostByteReceived 0xA5#8) running).host.receiver = .collecting []
      ∧ (after (.hostByteReceived 1#8) (after (.hostByteReceived 0xA5#8) running)).host.receiver = .collecting [1#8]
      ∧ scanFrame ([] ++ [1#8]) = .incomplete ∧ 0xA5#8 ∉ [1#8] ∧ scanFrame [1#8] = .incomplete
      ∧ (after .hostCharacterGapExpiry (after (.hostByteReceived 0xA5#8) running)).host.receiver = .hunting := by decide

/-- IDENTIFY byte by byte, and a kind that names no request (`LastByteOfAFrameIsItsRequest`). -/
def lastButOne (kind : Byte) (s : State) : State :=
  { s with host := { s.host with receiver := .collecting (requestFrame kind []).tail.dropLast } }

theorem test_last_byte_is_the_request :
    (requestFrame 0x3E#8 []).tail.dropLast ++ [(requestFrame 0x3E#8 []).getLastD 0#8] = (requestFrame 0x3E#8 []).tail
      ∧ result (after (.hostByteReceived ((requestFrame 0x3E#8 []).getLastD 0#8)) (lastButOne 0x3E#8 running)) = some .ok
      ∧ result (after (.hostByteReceived ((requestFrame 0x77#8 []).getLastD 0#8)) (lastButOne 0x77#8 running)) = some .unknownKind
      ∧ (after (.hostByteReceived ((requestFrame 0x77#8 []).getLastD 0#8)) (lastButOne 0x77#8 busy)).host.overrun = true := by decide +kernel

theorem test_kind_77_names_no_request : ∀ i lengths q, requestForm i ≠ some (0x77#8, lengths, q) := by
  intro i _ _ h
  cases i <;> simp [requestForm] at h

/-- `FramesReadBackWhole` at the longest payload and at the empty one. -/
theorem test_frame_reads_back :
    (List.replicate 256 0#8).length ≤ 256 ∧ scanFrame ((requestFrame 0x3E#8 []).tail ++ [7#8]) = .good 0x3E#8 [] [7#8]
      ∧ scanFrame ((requestFrame 0x3E#8 []).tail.take 4) = .incomplete := by decide +kernel

/-- `BadFrameIsExaminedAgain`: a length of 0, and a good frame within a bad one. -/
theorem test_bad_frame :
    scanFrame ([0#8] ++ [0#8]) = .bad
      ∧ (after (.hostByteReceived 0#8) { running with host := { running.host with receiver := .collecting [0#8] } }).host.receiver
        = .hunting := by decide

theorem test_responses_fit :
    running.storeSound ∧ running.host.sending = none
      ∧ ((after (.identify []) running).host.sending.map (·.payload.length)) = some 28 :=
  ⟨fun l => by revert l; decide, rfl, by decide⟩

/-! ## The Journal and the Attention Unit -/

/-- The clauses of `NoticeIsMaskedQueuedOrCountedAndHighLatched`. -/
theorem test_notice_masked_queued_counted :
    ({ running with journal := { Journal.reset with mask := 32#16 } } : State).journal.mask.getLsbD (NoticeBody.slowDeclared 1 2).kind = true
      ∧ running.journal.mask.getLsbD (NoticeBody.slowDeclared 1 2).kind = false ∧ running.journal.gapCount = 0
      ∧ running.journal.queue.length < 512 ∧ (running.notify none (.slowDeclared 1 2)).journal.queue.length = 1
      ∧ ((queued [] 1).notify none (.slowDeclared 1 2)).journal.gapCount = 2
      ∧ ({ running with journal := { Journal.reset with watermark := 1 } } : State).journal.queue.length + 1 = 1 := by decide

/-- The Journal is sound, and a step follows (`JournalStaysSound`). -/
theorem test_journal_sound : running.journalSound ∧ ∃ t, step { running with pending := [.runClockTick] } = .next t :=
  ⟨⟨⟨by decide, trivial, by decide, by decide, by decide, by decide, by decide⟩, fun _ => rfl⟩, _, rfl⟩

/-- The clauses of `TakeNoticesRemovesTheOldest`, at 0, 1, 10 and 11. -/
theorem test_takeNotices :
    answer (.takeNotices [0#8]) running = some .badValue ∧ answer (.takeNotices [11#8]) running = some .badValue
      ∧ answer (.takeNotices [1#8]) running = some .empty
      ∧ (after (.takeNotices [10#8]) (queued [notice, notice] 0)).journal.queue = []
      ∧ (after (.takeNotices [1#8]) (queued [notice, notice] 3)).journal.queue.map (·.body) = [.gap 1, .gap 3]
      ∧ (queued [notice] 0).attention.mode = .level ∧ (queued [notice] 0).journal.queue ≠ [] := by decide

/-- The mode FIRST of `TakeNoticesRemovesTheOldest`, NOTICE and HIGH latched. -/
theorem test_takeNotices_in_mode_first :
    ∃ s : State, s.attention.mode = .first ∧ s.attention.flags.notice = true ∧ s.attention.flags.high = true
      ∧ s.host = running.host ∧ s.journal.queue ≠ [] ∧ (after (.takeNotices [1#8]) s).attention.flags.notice = true :=
  ⟨{ queued [notice] 0 with attention := { Attention.reset with
      mode := .first, flags := { Attention.reset.flags with notice := true, high := true } } }, rfl, rfl, rfl, rfl, by decide, by decide⟩

/-- The GAP notice latches HIGH when the queue then stands at the watermark, and not above it; and (log 29) a notice that comes when a GAP notice
has filled the queue again is counted. -/
theorem test_gap_latches_high :
    (after (.takeNotices [1#8]) { queued [notice, notice] 3 with
        journal := { (queued [notice, notice] 3).journal with watermark := 2 } }).attention.flags.high = true
      ∧ (after (.takeNotices [1#8]) { queued [notice, notice] 3 with
        journal := { (queued [notice, notice] 3).journal with watermark := 1 } }).attention.flags.high = false := by decide

theorem test_notice_after_a_gap_that_fills_the_queue (s : State) (body : NoticeBody) (h : s.journal.queue.length = 511)
    (hg : 0 < s.journal.gapCount) (hm : s.journal.mask.getLsbD body.kind = false) :
    (s.queueGap.notify none body).journal.gapCount = 1 := by
  have hq : s.queueGap.journal.queue.length = 512 := by
    unfold State.queueGap State.enqueue
    split
    · omega
    · simp [h]
  have h0 : s.queueGap.journal.gapCount = 0 := by
    unfold State.queueGap
    split
    · assumption
    · rfl
  have hm' : s.queueGap.journal.mask.getLsbD body.kind = false := by
    unfold State.queueGap
    split <;> exact hm
  unfold State.notify
  simp [hq, h0, hm', satAdd, maxCount]

/-- `NoticeMaskAndWatermarkAreSet` at its bounds. -/
theorem test_mask_and_watermark :
    answer (.setNoticeMask [0#8]) running = some .badLength ∧ answer (.setNoticeMask (bytes [0, 128])) running = some .badValue
      ∧ answer (.setNoticeMask (bytes [255, 127])) running = some .ok ∧ answer (.setWatermark (bytes [0, 0])) running = some .badValue
      ∧ answer (.setWatermark (bytes [1, 2])) running = some .badValue ∧ answer (.setWatermark (bytes [0, 2])) running = some .ok
      ∧ (after (.setWatermark (bytes [1, 0])) running).journal.watermark = 1 := by decide

theorem test_readAttention :
    answer (.readAttention []) running = some .ok ∧ answer (.readAttention [0#8]) running = some .badLength
      ∧ payload (.readAttention []) running = [0, 63, 0, 255, 0, 0, 0, 0, 0, 0, 128, 1, 0, 0] := by decide

/-- `AttentionIsClearedAndSet` at its bounds. -/
theorem test_attention_cleared_and_set :
    answer (.clearAttention [64#8]) running = some .badValue ∧ answer (.clearAttention [63#8]) running = some .ok
      ∧ answer (.setAttention (bytes [64, 0])) running = some .badValue ∧ answer (.setAttention (bytes [0, 2])) running = some .badValue
      ∧ (after (.setAttention (bytes [63, 1])) running).attention.mode = .first
      ∧ answer (.clearAttention []) running = some .badLength ∧ answer (.setAttention []) running = some .badLength := by decide

theorem test_attn :
    ((running.latch .link).attention.asserted = true) ∧ running.attention.asserted = false
      ∧ (after (.setAttention (bytes [62, 0])) (running.latch .link)).attention.asserted = false := by decide

/-! ## The clocks and the triggers -/

def withPlant (seconds : Nat) (boundary now : Tick) : State :=
  { running with plant := some { seconds := seconds, boundary := boundary }, runClock := now }

/-- The clauses of `ClocksAdvance`: 99 and 100 ticks, and the last second. -/
theorem test_clocks_advance :
    (after .plantSecondAdvance (withPlant 5 0#32 99#32)).plant = some { seconds := 5, boundary := 0#32 }
      ∧ (after .plantSecondAdvance (withPlant 5 0#32 100#32)).plant = some { seconds := 6, boundary := 100#32 }
      ∧ (after .plantClockLimit (withPlant 4294967295 0#32 100#32)).plant = none
      ∧ (after .plantSecondAdvance (withPlant 4294967295 0#32 100#32)).plant = some { seconds := 4294967295, boundary := 0#32 }
      ∧ running.plant = none ∧ running.resetPhase ≠ .held ∧ (after .resetPin running).resetPhase = .held := by decide

/-- The clauses of `LoadAndStepMoveThePlantClock`: a step's offset at ±604,800 and beyond, a target below 0 and above the limit. -/
theorem test_load_and_step :
    s32 (bytes [129, 58, 9, 0]) 0 = 604801 ∧ answer (.stepClock (bytes [129, 58, 9, 0])) running = some .badValue
      ∧ s32 (bytes [127, 197, 246, 255]) 0 = -604801 ∧ answer (.stepClock (bytes [127, 197, 246, 255])) running = some .badValue
      ∧ answer (.stepClock (bytes [1, 0, 0, 0])) running = some .clockUnset
      ∧ answer (.stepClock (bytes [255, 255, 255, 255])) (withPlant 0 0#32 0#32) = some .badValue
      ∧ answer (.stepClock (bytes [1, 0, 0, 0])) (withPlant 4294967295 0#32 0#32) = some .badValue
      ∧ (after (.stepClock (bytes [255, 255, 255, 255])) (withPlant 1 0#32 0#32)).plant = some { seconds := 0, boundary := 0#32 }
      ∧ (after (.stepClock (bytes [0, 0, 0, 0])) (withPlant 1 0#32 0#32)).plant = some { seconds := 1, boundary := 0#32 }
      ∧ (after (.loadClock (bytes [9, 0, 0, 0])) running).plant = some { seconds := 9, boundary := 0#32 }
      ∧ (after (.loadClock (bytes [9, 0, 0, 0])) (withPlant 10 0#32 50#32)).plant = some { seconds := 9, boundary := 50#32 } := by decide

/-- Trigger 0 armed for second 60, every 60 seconds, for line 0. -/
def armed (t : Tick) (seconds : Nat) : State :=
  { scheduled .producing t with
    plant := some { seconds := seconds, boundary := t }
    triggers := running.triggers.set 0 { Trigger.reset with state := .armed, time := 60, interval := 60, lines := 1#8 } }

/-- A move of the clock reaches an armed trigger. -/
theorem test_load_reaches_a_trigger :
    payload (.loadClock (bytes [60, 0, 0, 0])) (armed 100#32 59) = [1]
      ∧ (armed 100#32 59).plantNow = some { seconds := 59, boundary := 100#32 } ∧ ((armed 100#32 59).trigger 0).state = .armed
      ∧ ((after (.loadClock (bytes [60, 0, 0, 0])) (armed 100#32 59)).trigger 0).time = 120 := by decide

/-- A forward STEP_CLOCK reaches the trigger at its bound and not a second short of it. -/
theorem test_step_reaches_a_trigger :
    payload (.stepClock (bytes [1, 0, 0, 0])) (armed 100#32 59) = [1] ∧ payload (.stepClock (bytes [1, 0, 0, 0])) (armed 100#32 58) = [0]
      ∧ (after (.stepClock (bytes [1, 0, 0, 0])) (armed 100#32 59)).journal.queue.map (·.body)
        = [.periodClosed 1#32 .trigger none, .triggerFired 0 1#8 0#8 0 true] := by decide

/-- `ArmTriggerArmsOneTrigger`: intervals 59 and 60, an empty set, the clock unset, a time at the present second and after it. -/
theorem test_armTrigger :
    answer (.armTrigger (bytes [0, 6, 0, 0, 0, 59, 0, 0, 0, 1])) (withPlant 5 0#32 0#32) = some .badValue
      ∧ answer (.armTrigger (bytes [0, 6, 0, 0, 0, 60, 0, 0, 0, 0])) (withPlant 5 0#32 0#32) = some .badValue
      ∧ answer (.armTrigger (bytes [8, 6, 0, 0, 0, 60, 0, 0, 0, 1])) (withPlant 5 0#32 0#32) = some .badValue
      ∧ answer (.armTrigger (bytes [7, 6, 0, 0, 0, 60, 0, 0, 0, 1])) running = some .clockUnset
      ∧ answer (.armTrigger (bytes [7, 5, 0, 0, 0, 60, 0, 0, 0, 1])) (withPlant 5 0#32 0#32) = some .late
      ∧ ((after (.armTrigger (bytes [7, 6, 0, 0, 0, 60, 0, 0, 0, 1])) (withPlant 5 0#32 0#32)).trigger 7).state = .armed := by decide

theorem test_clock_and_triggers_read :
    payload (.readClock []) (withPlant 5 0#32 50#32) = [1, 5, 0, 0, 0, 50, 50, 0, 0, 0]
      ∧ answer (.disarmTrigger [8#8]) running = some .badValue
      ∧ ((after (.disarmTrigger [0#8]) (armed 0#32 0)).trigger 0).state = .disarmed ∧ answer (.readTriggers []) running = some .ok
      ∧ answer (.readClock [0#8]) running = some .badLength ∧ answer (.readTriggers [0#8]) running = some .badLength := by decide

/-- `TriggerExpiryClosesItsLines`: a repeating trigger on a line that qualifies; a one-shot trigger. -/
theorem test_triggerExpiry :
    (armed 100#32 60).plantNow = some { seconds := 60, boundary := 100#32 } ∧ ((armed 100#32 60).trigger 0).time ≤ 60
      ∧ (armed 100#32 60).qualifies 0 = true ∧ (armed 0#32 60).qualifies 0 = false
      ∧ (after (.triggerExpiry 0) (armed 100#32 60)).store[(0 : Fin 8)].map (·.reason) = [.trigger]
      ∧ ((after (.triggerExpiry 0) (armed 100#32 60)).trigger 0).time = 120 := by decide

theorem test_triggerExpiry_once :
    ((after (.triggerExpiry 0) ((armed 100#32 60).updTrigger 0 fun t => { t with interval := 0 })).trigger 0).state = .spent := by
  decide

/-! ## The Cause Map and the walk -/

def entry : CauseEntry := { station := 255, kind := .fault, code := 3, cause := 9, cls := .utility }

def mapped : State := { running with causeMap := [entry] }

theorem test_map_sound : causeMapSound mapped.causeMap := by
  refine ⟨by decide, .cons (by simp) .nil, ?_⟩
  intro e he
  simp only [mapped, List.mem_singleton] at he
  subst he
  exact ⟨.inr rfl, by decide, by decide, by decide, by decide, by decide, by decide⟩

/-- `MapCauseReplacesOrAdds` at the bounds of its ranges. -/
theorem test_mapCause :
    (after (.mapCause (bytes [255, 0, 3, 239, 8])) mapped).causeMap.map (·.cause) = [239]
      ∧ (after (.mapCause (bytes [95, 0, 3, 1, 0])) mapped).causeMap.map (·.station) = [95, 255]
      ∧ answer (.mapCause (bytes [96, 0, 3, 1, 0])) mapped = some .badValue ∧ answer (.mapCause (bytes [1, 1, 0, 1, 0])) mapped = some .badValue
      ∧ answer (.mapCause (bytes [1, 0, 0, 240, 0])) mapped = some .badValue ∧ answer (.mapCause (bytes [1, 0, 0, 1, 7])) mapped = some .badValue
      ∧ answer (.mapCause []) mapped = some .badLength := by decide

/-- `UnmapCauseAndReadMap`. -/
theorem test_unmap_and_readMap :
    (after (.unmapCause (bytes [255, 0, 3])) mapped).causeMap = [] ∧ answer (.unmapCause (bytes [1, 0, 3])) mapped = some .notFound
      ∧ answer (.unmapCause (bytes [1, 2, 3])) mapped = some .badValue ∧ answer (.readMap (bytes [0, 2])) mapped = some .badValue
      ∧ payload (.readMap (bytes [0, 0])) mapped = [1, 0, 0, 0, 1, 255, 0, 3, 9, 4]
      ∧ payload (.readMap (bytes [1, 0])) mapped = [1, 0, 1, 0, 0] := by decide

/-- A full map refuses a new key: 512 entries meet `MapCauseReplacesOrAdds`'s clause. -/
theorem test_mapCause_full : ∃ m : List CauseEntry, m.length = 512 ∧ ∀ q ∈ m, ¬(q.station = 1 ∧ q.kind = .fault ∧ q.code = 0) :=
  ⟨List.replicate 512 entry, List.length_replicate, fun q hq => by rw [List.eq_of_mem_replicate hq]; decide⟩

def faulty (code : Nat) : Station := { reporting 1 1 .fault with faultCode := code }

/-- `LookupPrefersTheStationsOwnEntry`: the station's entry, the ANY entry, none, and an operator stop without a reason. -/
theorem test_lookup :
    readStop [{ entry with station := 1, cause := 4 }, entry] (faulty 3) = { station := 1, cause := 4, cls := .utility }
      ∧ readStop [entry] (faulty 3) = { station := 1, cause := 9, cls := .utility }
      ∧ readStop [entry] (faulty 2) = { station := 1, cause := 255, cls := .unassigned }
      ∧ readStop [] (reporting 1 1 .operatorStop) = { station := 1, cause := 249, cls := .operator } := by decide

/-- `WalkStopsAtTheFirstStationThatDiffers`: both walks, ended by a station and by the end of the line. -/
theorem test_walk :
    walkFrom [] [reporting 1 0 .run, reporting 2 0 .starved, reporting 3 1 .starved] (reporting 3 1 .starved)
        = { station := 1, cause := 250, cls := .equipment }
      ∧ walkFrom [] [reporting 2 0 .starved, reporting 3 1 .starved] (reporting 3 1 .starved)
        = { station := 2, cause := 251, cls := .material }
      ∧ walkFrom [] [reporting 3 1 .blocked, reporting 4 0 .blocked, reporting 5 0 .off] (reporting 3 1 .blocked)
        = { station := 5, cause := 247, cls := .operator }
      ∧ walkFrom [] [reporting 3 1 .blocked] (reporting 3 1 .blocked) = { station := 3, cause := 252, cls := .logistics } := by decide

/-- The same walks past bypassed stations, which are read nowhere: on the way, at the end of the line, and with every station bypassed. -/
theorem test_walk_past_bypassed :
    walkFrom [] [reporting 1 0 .off, { reporting 2 0 .fault with bypassed := true }, reporting 3 1 .starved] (reporting 3 1 .starved)
        = { station := 1, cause := 247, cls := .operator }
      ∧ walkFrom [] [{ reporting 1 0 .starved with bypassed := true }, reporting 2 0 .starved, reporting 3 1 .starved] (reporting 3 1 .starved)
        = { station := 2, cause := 251, cls := .material }
      ∧ walkFrom [] [reporting 3 1 .blocked, { reporting 4 0 .run with bypassed := true }] (reporting 3 1 .blocked)
        = { station := 3, cause := 252, cls := .logistics } := by decide

/-- What is read where a walk stops, by the station's link and reported state. -/
theorem test_readStop :
    [{ reporting 1 0 .run with linkState := .silent }, station 1 0, reporting 1 0 .run, reporting 1 0 .off, reporting 1 0 .changeover,
        reporting 1 0 .starved, reporting 1 0 .blocked].map (fun r => (readStop [] r).cause) = [253, 253, 250, 247, 254, 246, 246] := by decide

/-! ## Lines and stations -/

/-- `DefineLineDefinesTheLine`: the short form, the full form at bounds, and failures of fields and across fields. -/
theorem test_defineLine :
    answer (.defineLine (bytes [7, 1, 0])) running = some .ok ∧ payload (.defineLine (bytes [8, 1, 0])) running = [1]
      ∧ answer (.defineLine (bytes [0, 1, 0])) (scheduled .producing 0#32) = some .wrongState
      ∧ answer (.defineLine (bytes [0, 1, 0, 5, 0, 60, 0, 0, 0, 120, 5, 50, 51, 1, 16, 192, 212, 1, 0])) running = some .ok
      ∧ payload (.defineLine (bytes [0, 1, 0, 4, 0, 60, 0, 0, 0, 120, 5, 50, 51, 1, 16, 192, 212, 1, 0])) running = [3]
      ∧ payload (.defineLine (bytes [0, 1, 0, 60, 0, 60, 0, 0, 0, 120, 5, 50, 51, 1, 16, 192, 212, 1, 0])) running = [4]
      ∧ payload (.defineLine (bytes [0, 1, 0, 5, 0, 60, 0, 0, 0, 120, 5, 60, 60, 1, 16, 192, 212, 1, 0])) running = [8] := by decide

/-- `UndefineAndRemove`: each clause. -/
theorem test_undefine_and_remove :
    answer (.undefineLine [0#8]) (scheduled .producing 0#32) = some .wrongState ∧ answer (.undefineLine [8#8]) running = some .badValue
      ∧ answer (.undefineLine [7#8]) configured = some .notFound ∧ answer (.undefineLine [0#8]) configured = some .notEmpty
      ∧ (after (.undefineLine [0#8]) { configured with stations := [] }).line? 0 = none
      ∧ answer (.removeStation [96#8]) configured = some .badValue ∧ answer (.removeStation [95#8]) configured = some .notFound
      ∧ (after (.removeStation [1#8]) configured).stations = [station 2 2] := by decide

/-- The enrollment of the test states is sound (`UndefineAndRemove`, `EnrollmentAndPartStateStaySound`, `RoundsAreListedAndDeadRoundsCounted`). -/
theorem test_enrollment_sound : configured.enrollmentSound := by
  refine ⟨?_, by decide, ?_, fun h => by cases h⟩
  · refine .cons ?_ (.cons (by simp) .nil)
    simp only [List.mem_singleton]
    rintro b rfl
    exact ⟨by decide, by decide, by decide⟩
  · intro r hr
    simp only [configured, List.mem_cons, List.not_mem_nil, or_false] at hr
    rcases hr with rfl | rfl <;> exact ⟨⟨by decide, by decide, by decide, by decide, by decide, by decide, by decide⟩, rfl⟩

theorem test_part_sound : configured.partSound := by
  refine ⟨fun l ln h => ?_, fun _ => by decide⟩
  have hl : ∀ l : Fin 8, ∀ ln, configured.line? l = some ln → ln.live = none := by
    intro l
    revert l
    unfold State.line?
    decide +revert
  simp [hl l ln h, configured, running, State.reset]

/-- `EnrollStationCreatesARecord`: each refusal in its order, and the record. -/
theorem test_enrollStation :
    answer (.enrollStation (bytes [96, 0, 3, 0, 3, 0, 1, 0, 0, 0])) configured = some .badValue
      ∧ answer (.enrollStation (bytes [3, 0, 3, 7, 3, 0, 1, 0, 0, 0])) configured = some .notFound
      ∧ payload (.enrollStation (bytes [1, 0, 3, 0, 3, 0, 1, 0, 0, 0])) configured = [1]
      ∧ payload (.enrollStation (bytes [3, 0, 1, 0, 3, 0, 1, 0, 0, 0])) configured = [2]
      ∧ payload (.enrollStation (bytes [3, 3, 1, 0, 1, 0, 1, 0, 0, 0])) configured = [3]
      ∧ (after (.enrollStation (bytes [95, 3, 31, 0, 16, 3, 192, 212, 1, 0])) configured).stations.map (·.number) = [1, 2, 95]
      ∧ answer (.enrollStation (bytes [95, 3, 31, 0, 16, 3, 193, 212, 1, 0])) configured = some .badValue := by decide

/-- A full link meets the last refusal of `EnrollStationCreatesARecord`. -/
theorem test_enrollStation_full :
    enrolledOn (List.replicate 24 (station 1 1)) 0 = 24
      ∧ answer (.enrollStation (bytes [3, 0, 3, 0, 3, 0, 1, 0, 0, 0])) { configured with stations := List.replicate 24 (station 1 1) }
        = some .full := by decide

/-- `BypassStationSetsTheFlag`: each clause; the candidate's and the stoppage's root is station 1, which the walk reads. -/
theorem test_bypassStation :
    answer (.bypassStation (bytes [96, 0])) configured = some .badValue ∧ answer (.bypassStation (bytes [95, 0])) configured = some .notFound
      ∧ answer (.bypassStation (bytes [1, 1])) configured = some .badValue ∧ answer (.bypassStation (bytes [2, 0])) configured = some .ok
      ∧ ((after (.bypassStation (bytes [2, 1])) configured).station? 2).map (·.bypassed) = some true
      ∧ ((after (.bypassStation (bytes [2, 1])) (scheduled (.candidate candidate) 9#32)).live? 0).map (·.condition)
        = some (.candidate { candidate with root := { station := 1, cause := 250, cls := .equipment } })
      ∧ (after (.bypassStation (bytes [2, 1])) (scheduled (.stopped stoppage) 9#32)).journal.queue.length = 1 := by decide

/-- A bypass change makes no walk in UNOBSERVED, PRODUCING and RESTARTING. -/
theorem test_bypassStation_without_a_walk :
    [Condition.unobserved, .producing, .restarting stoppage 5#32 1005#32].all (fun c =>
      (after (.bypassStation (bytes [2, 1])) (scheduled c 9#32)).lines == (scheduled c 9#32).lines
        && (after (.bypassStation (bytes [2, 1])) (scheduled c 9#32)).journal == (scheduled c 9#32).journal) = true := by decide

/-! ## Modes -/

/-- `DeclarationOfTheHeldModeHasNoEffect`: each clause. -/
theorem test_declare_held :
    answer (.declareLineMode (bytes [0, 0, 0, 0, 0, 0, 0, 0, 0])) configured = some .wrongState
      ∧ answer (.declareLineMode (bytes [8, 0, 0, 0, 0, 0, 0, 0, 0])) (scheduled .producing 5#32) = some .badValue
      ∧ answer (.declareLineMode (bytes [7, 0, 0, 0, 0, 0, 0, 0, 0])) (scheduled .producing 5#32) = some .notFound
      ∧ answer (.declareLineMode (bytes [0, 4, 0, 0, 0, 0, 0, 0, 0])) (scheduled .producing 5#32) = some .badValue
      ∧ answer (.declareLineMode (bytes [0, 2, 240, 0, 0, 0, 0, 0, 0])) (scheduled .producing 5#32) = some .badValue
      ∧ ((after (.declareLineMode (bytes [0, 0, 0, 0, 0, 0, 0, 0, 0])) (scheduled .producing 5#32)).live? 0).map (·.lastChange) = some 0#32
      ∧ ((after (.declareLineMode (bytes [0, 3, 1, 0, 0, 0, 0, 0, 0])) (monitoring (.planned 3 0) (live (.planned 3 0#32)) 5#32)).live? 0).map
          (·.condition) = some (.changeover 1 5#32) := by decide

/-- `DeclarationEntersTheMode`: from each SCHEDULED condition and from another mode. -/
theorem test_declare_enters :
    modeOf 2 1 0 10 = some (.planned 1 1000) ∧ modeOf 1 0 0 0 = some .notScheduled
      ∧ ((after (.declareLineMode (bytes [0, 2, 1, 0, 0, 10, 0, 0, 0])) (scheduled .producing 5#32)).live? 0).map (·.period.classes.producing)
        = some 5#32
      ∧ ((after (.declareLineMode (bytes [0, 1, 0, 0, 0, 0, 0, 0, 0])) (scheduled (.candidate candidate) 5#32)).live? 0).map
          (·.period.microStops) = some 1
      ∧ (after (.declareLineMode (bytes [0, 1, 0, 0, 0, 0, 0, 0, 0])) (scheduled (.stopped stoppage) 5#32)).journal.queue.length = 1
      ∧ ((after (.declareLineMode (bytes [0, 1, 0, 0, 0, 0, 0, 0, 0])) (scheduled .unobserved 5#32)).live? 0).map
          (·.period.classes.unobserved) = some 5#32 := by decide

/-- `ReturnToScheduledFollowsTheConstraint`: the product of a changeover, with room for its run and without. -/
theorem test_return_to_scheduled :
    ((after (.declareLineMode (bytes [0, 0, 0, 0, 0, 0, 0, 0, 0])) (monitoring (.changeover 1 9 0) (live (.changeover 1 0#32)) 5#32)).live? 0).map
        (fun lv => (lv.condition, lv.period.runs.map (·.product))) = some (.producing, [7, 9])
      ∧ ((after (.declareLineMode (bytes [0, 0, 0, 0, 0, 0, 0, 0, 0])) (monitoring (.changeover 1 9 0)
          { live (.changeover 1 0#32) with period := { period with runs := period.runs ++ period.runs ++ period.runs ++ period.runs } }
          5#32)).live? 0).map (fun lv => lv.period.runs.map (·.product)) = some [9]
      ∧ (monitoring .notScheduled (live .notScheduled) 5#32).constraint? 0 = some (reporting 1 1 .run) := by decide

/-- A SLOW line's slow time accrues from an entry to PRODUCING; and the close of a PRODUCT_LIMIT queues its notice and latches PERIOD. -/
theorem test_return_of_a_slow_line :
    ((after (.declareLineMode (bytes [0, 0, 0, 0, 0, 0, 0, 0, 0])) (monitoring .notScheduled
        { live .notScheduled with rate := { RateState.initial with slow := true } } 5#32)).live? 0).map (fun lv => (lv.rate.slow, lv.rate.slowStart))
        = some (true, some 5#32)
      ∧ (after (.declareLineMode (bytes [0, 0, 0, 0, 0, 0, 0, 0, 0])) (monitoring (.changeover 1 9 0)
          { live (.changeover 1 0#32) with period := { period with runs := period.runs ++ period.runs ++ period.runs ++ period.runs } }
          5#32)).journal.queue.map (·.body) = [.periodClosed 1#32 .productLimit none]
      ∧ (after (.declareLineMode (bytes [0, 0, 0, 0, 0, 0, 0, 0, 0])) (monitoring (.changeover 1 9 0)
          { live (.changeover 1 0#32) with period := { period with runs := period.runs ++ period.runs ++ period.runs ++ period.runs } }
          5#32)).attention.flags.period = true := by decide

/-! ## Rates and counters -/

/-- `SetRateChangesTheDefinition`: refusals at their bounds, and the effects with and without a window. -/
theorem test_setRate :
    answer (.setRate (bytes [0, 0, 0, 0, 0, 90, 95])) configured = some .wrongState
      ∧ payload (.setRate (bytes [8, 0, 0, 0, 0, 90, 95])) (scheduled .producing 5#32) = [1]
      ∧ answer (.setRate (bytes [7, 0, 0, 0, 0, 90, 95])) (scheduled .producing 5#32) = some .notFound
      ∧ payload (.setRate (bytes [0, 193, 212, 1, 0, 90, 95])) (scheduled .producing 5#32) = [11]
      ∧ payload (.setRate (bytes [0, 0, 0, 0, 0, 49, 95])) (scheduled .producing 5#32) = [7]
      ∧ payload (.setRate (bytes [0, 0, 0, 0, 0, 99, 99])) (scheduled .producing 5#32) = [8]
      ∧ ((after (.setRate (bytes [0, 60, 0, 0, 0, 99, 100])) (scheduled .producing 5#32)).live? 0).map (fun lv => lv.rate.window.map (·.expected))
        = some (some 15)
      ∧ ((after (.setRate (bytes [0, 0, 0, 0, 0, 99, 100])) (scheduled .producing 5#32)).live? 0).map (·.rate.window) = some none := by decide

def window : Window := { start := 0#32, expiry := 1500#32, expected := 150, declarePct := 90, clearPct := 95, actual := 0 }

/-- A PRODUCING line with a window that ends at tick 1500, after two low windows, SLOW or not. -/
def windowed (slow : Bool) (w : Window) (t : Tick) : State :=
  monitoring .scheduled { live .producing with
    rate := { slow := slow, lowRun := 2, highRun := 1, window := some w, slowStart := if slow then some 0#32 else none, last := none } } t

/-- `WindowExpiryJudgesTheWindow`: before its end, SLOW declared, SLOW cleared, neither. -/
theorem test_windowExpiry :
    reached window.expiry 1499#32 = false ∧ after (.windowExpiry 0) (windowed false window 1499#32) = windowed false window 1499#32
      ∧ ((after (.windowExpiry 0) (windowed false window 1500#32)).live? 0).map (fun lv => (lv.rate.slow, lv.period.shortfall)) = some (true, 150)
      ∧ ((after (.windowExpiry 0) (windowed true { window with actual := 150 } 1500#32)).live? 0).map (fun lv => (lv.rate.slow, lv.period.slowTicks))
        = some (false, 1500#32)
      ∧ ((after (.windowExpiry 0) (windowed true window 1500#32)).live? 0).map (·.rate.slow) = some true := by decide

/-- A window that ends when the nominal rate is 0. -/
theorem test_windowExpiry_without_rate :
    ((after (.windowExpiry 0) ((windowed true window 1500#32).updLine 0 fun ln => { ln with defn := { ln.defn with nominalRate := 0 } })).live?
      0).map (fun lv => (lv.rate.slow, lv.rate.window)) = some (false, none) := by decide

/-- Line 0 with a nominal rate of 0, set while its last window runs. -/
def rateless (s : State) : State := s.updLine 0 fun ln => { ln with defn := { ln.defn with nominalRate := 0 } }

/-- The last window of such a line declares SLOW or clears it with its notice, and the slow ticks end there. -/
theorem test_windowExpiry_without_rate_notices :
    (after (.windowExpiry 0) (rateless (windowed false window 1500#32))).journal.queue.map (·.body) = [.slowDeclared 0 150]
      ∧ (after (.windowExpiry 0) (rateless (windowed true { window with actual := 150 } 1500#32))).journal.queue.map (·.body)
        = [.slowCleared 150 150]
      ∧ ((after (.windowExpiry 0) (rateless (windowed true window 1500#32))).live? 0).map (·.period.slowTicks) = some 1500#32 := by decide

/-- Log 27: a SLOW line keeps the value when it leaves PRODUCING, and does not when its nominal rate is 0. -/
theorem test_leaving_without_rate :
    ((after (.declareLineMode (bytes [0, 1, 0, 0, 0, 0, 0, 0, 0])) (windowed true window 5#32)).live? 0).map (·.rate.slow) = some true
      ∧ ((after (.declareLineMode (bytes [0, 1, 0, 0, 0, 0, 0, 0, 0])) (rateless (windowed true window 5#32))).live? 0).map
          (fun lv => (lv.rate.slow, lv.period.slowTicks)) = some (false, 5#32)
      ∧ (((rateless (windowed true window 9#32)).offerReport 0 (reporting 1 1 .starved) 5#32).live? 0).map (·.rate.slow)
        = some false := by decide

def counters (n : Nat) : Counters := { infeed := BitVec.ofNat 16 n, outfeed := BitVec.ofNat 16 n, reject := 0#16 }

/-- `CountersAreCreditedOrRefused`: credited at the allowance, refused above it, a restart, a gap too long, no baselines. -/
theorem test_counters :
    plausibleUpTo 600 100 = 18
      ∧ (((scheduled .producing 100#32).takeCounters (reporting 1 1 .run) (some 0#32) (counters 18) false).live? 0).map (·.period.constraintGood)
        = some 18
      ∧ (((scheduled .producing 100#32).takeCounters (reporting 1 1 .run) (some 0#32) (counters 19) false).live? 0).map
          (fun lv => (lv.period.entry 1).discontinuities) = some 2
      ∧ (((scheduled .producing 100#32).takeCounters (reporting 1 1 .run) (some 0#32) (counters 5) true).live? 0).map
          (fun lv => (lv.period.entry 1).discontinuities) = some 1
      ∧ (scheduled .producing 100#32).station? 1 = some (reporting 1 1 .run)
      ∧ ((scheduled .producing 100#32).takeCounters (station 1 1) none (counters 5) false).lines = (scheduled .producing 100#32).lines := by decide

/-- The record handed over stood before the report, and the Station Table holds the applied one, which keeps what the report gave it. -/
theorem test_counters_of_an_applied_report :
    let applied := { reporting 1 1 .starved with lastApplied := some 100#32, changeInstant := some 100#32 }
    let s := (scheduled .producing 100#32).updStation 1 fun _ => applied
    s.station? 1 = some applied ∧ applied ≠ reporting 1 1 .run
      ∧ (s.takeCounters (reporting 1 1 .run) (some 0#32) (counters 18) false).station? 1
        = some { applied with baselines := some (counters 18), gap := some { expiry := 393216100#32, taken := false } }
      ∧ ((s.takeCounters (reporting 1 1 .run) (some 0#32) (counters 18) false).live? 0).map (·.period.constraintGood) = some 18 := by decide

/-- Each refused delta is one discontinuity and one notice, in order; a gap expiry taken, or an allowance of 65,536, is one of ALL. -/
theorem test_counters_refused :
    ((scheduled .producing 100#32).takeCounters (reporting 1 1 .run) (some 0#32) (counters 19) false).journal.queue.map (·.body)
        = [.countDiscontinuity 1 .infeed .implausible, .countDiscontinuity 1 .outfeed .implausible]
      ∧ ((scheduled .producing 100#32).takeCounters { reporting 1 1 .run with gap := some { expiry := 0#32, taken := true } } (some 0#32)
          (counters 5) false).journal.queue.map (·.body) = [.countDiscontinuity 1 .all .gapTooLong]
      ∧ plausibleUpTo 600 655270 = 65535 ∧ (600 * 655271 + 5999) / 6000 + 8 = 65536
      ∧ ((scheduled .producing 655271#32).takeCounters (reporting 1 1 .run) (some 0#32) (counters 5) false).journal.queue.map (·.body)
        = [.countDiscontinuity 1 .all .gapTooLong]
      ∧ ((scheduled .producing 100#32).takeCounters (reporting 1 1 .run) (some 0#32) (counters 5) true).journal.queue.map (·.body)
        = [.countDiscontinuity 1 .all .stationRestart] := by decide

theorem test_gapExpiry :
    reached 393216000#32 393215999#32 = false ∧ after (.gapExpiry 1) (scheduled .producing 0#32) = scheduled .producing 0#32
      ∧ ((after (.gapExpiry 1) (scheduled .producing 393216000#32)).station? 1).map (·.gapTaken) = some true
      ∧ after (.gapExpiry 95) running = running := by decide

/-! ## Stops -/

theorem test_onLine (m : Mode) (lv : Live) (t : Tick) : (monitoring m lv t).onLine 0 (lineIn m lv) lv := ⟨rfl, rfl⟩

/-- `PromotionOpensAStoppage`, at the tick and before. -/
theorem test_promotion :
    reached candidate.promotion 2999#32 = false ∧ reached candidate.promotion 3000#32 = true
      ∧ ((after (.promotionExpiry 0) (scheduled (.candidate candidate) 3000#32)).live? 0).map (·.condition.stoppage?.map (·.number))
        = some (some 1#32)
      ∧ after (.promotionExpiry 0) (scheduled (.candidate candidate) 2999#32) = scheduled (.candidate candidate) 2999#32 := by decide

/-- `ConfirmationClosesTheStoppage`, at the tick and before. -/
theorem test_confirmation :
    ((after (.confirmationExpiry 0) (scheduled (.restarting stoppage 50#32 1050#32) 1050#32)).live? 0).map
        (fun lv => (lv.condition, lv.period.classes.stopped, lv.period.classes.producing)) = some (.producing, 50#32, 1000#32)
      ∧ after (.confirmationExpiry 0) (scheduled (.restarting stoppage 50#32 1050#32) 1049#32)
        = scheduled (.restarting stoppage 50#32 1050#32) 1049#32 := by decide

/-- `LongStopCapAndAllowanceExpire`: the two timers of a stoppage, taken once, and an allowance. -/
theorem test_longStop_cap_allowance :
    (after (.longStopExpiry 0) (scheduled (.stopped stoppage) 90000#32)).journal.queue.length = 1
      ∧ (after (.longStopExpiry 0) (scheduled (.stopped { stoppage with notified := true }) 90000#32)).journal.queue = []
      ∧ ((after (.durationCapExpiry 0) (scheduled (.stopped stoppage) 2147483647#32)).live? 0).map (·.condition.stoppage?.map (·.capped))
        = some (some true)
      ∧ ((after (.allowanceExpiry 0) (monitoring (.planned 3 100) { live (.planned 3 0#32) with allowanceExpiry := some 100#32 } 100#32)).live?
          0).map (·.condition) = some (.overrun 100#32)
      ∧ ((after (.allowanceExpiry 0) (monitoring (.changeover 3 9 100) { live (.changeover 3 0#32) with allowanceExpiry := some 100#32 } 99#32)).live?
          0).map (·.condition) = some (.changeover 3 0#32) := by decide

/-- `OffersOfTheConstraintDriveTheCondition`: out of RUN, back to RUN, and unseen. -/
theorem test_offers :
    (((scheduled .producing 9#32).offerReport 0 (reporting 1 1 .starved) 5#32).live? 0).map (fun lv => (lv.condition.candidate?.map (·.start)))
        = some (some 5#32)
      ∧ (((scheduled (.candidate candidate) 9#32).offerReport 0 (reporting 1 1 .run) 5#32).live? 0).map (·.period.classes.shortStop) = some 5#32
      ∧ (((scheduled (.stopped stoppage) 9#32).offerReport 0 (reporting 1 1 .run) 5#32).live? 0).map (·.condition)
        = some (.restarting stoppage 5#32 1005#32)
      ∧ reached (5#32 + ticks 1000) 9#32 = false
      ∧ (((scheduled (.stopped stoppage) 9#32).offerSilent 0 (reporting 1 1 .run)).live? 0).map (·.condition) = some .unobserved
      ∧ (((scheduled .unobserved 9#32).offerReport 0 (reporting 1 1 .run) 5#32).live? 0).map (·.condition) = some .producing
      ∧ (((monitoring .notScheduled (live .notScheduled) 9#32).offerSilent 0 (reporting 1 1 .run)).live? 0).map (·.condition)
        = some .notScheduled := by decide

/-- Walks made by an offer: of another station in CANDIDATE and STOPPED, of the constraint in CANDIDATE; a relapse with a new key; and a
confirmation reached already at the return. -/
theorem test_offers_walk :
    (((scheduled (.candidate candidate) 9#32).offerReport 0 (reporting 2 2 .fault) 5#32).live? 0).map (·.condition.candidate?.map (·.root.cause))
        = some (some 250)
      ∧ ((scheduled (.stopped stoppage) 9#32).offerSilent 0 (reporting 2 2 .run)).journal.queue.map (·.body)
        = [.stopReattributed 1#32 { station := 1, cause := 250, cls := .equipment } 2]
      ∧ (((scheduled (.candidate candidate) 9#32).offerReport 0 (reporting 1 1 .starved) 5#32).live? 0).map
          (·.condition.candidate?.map (·.root.cause)) = some (some 250)
      ∧ (((scheduled (.restarting stoppage 5#32 1005#32) 9#32).offerReport 0 (reporting 1 1 .starved) 7#32).live? 0).map
          (fun lv => (lv.condition.stoppage?.map (·.segments), lv.condition.code, lv.lastChange)) = some (some 2, 7, 9#32)
      ∧ (((scheduled (.stopped stoppage) 1100#32).offerReport 0 (reporting 1 1 .run) 90#32).live? 0).map (·.condition) = some .producing := by
  decide

/-- A SLOW line's slow time accrues from its entry to PRODUCING, out of CANDIDATE and out of UNOBSERVED; and (log 28) a stop placed back before
the instant at which slow was cleared leaves the slow ticks, which settling bounds. -/
theorem test_slow_at_entries :
    [Condition.candidate candidate, .unobserved].map (fun c =>
        (((monitoring .scheduled { live c with rate := { RateState.initial with slow := true } } 9#32).offerReport 0 (reporting 1 1 .run) 5#32).live?
          0).map (·.rate.slowStart)) = [some (some 5#32), some (some 9#32)]
      ∧ (((after (.windowExpiry 0) (windowed true { window with actual := 150 } 1500#32)).offerReport 0 (reporting 1 1 .starved) 1490#32).live? 0).map
          (fun lv => (lv.period.slowTicks, lv.period.classes.producing)) = some (1500#32, 1490#32)
      ∧ ((after (.readOpen (bytes [0, 0, 0, 1])) ((after (.windowExpiry 0) (windowed true { window with actual := 150 } 1500#32)).offerReport 0
          (reporting 1 1 .starved) 1490#32)).snapshot.map fun r => (r.period.slowTicks, r.period.classes.producing)) = some (1490#32, 1490#32) := by
  decide

/-! ## Closes and the Period Store -/

def record (n : BitVec 32) : ClosedRecord :=
  { period := { period with number := n }, closeTick := 0#32, closePlant := none, reason := .request, outCandidate := false, outStoppage := none
    windowRunning := false, displaced := none }

/-- Line 0 PRODUCING with records stored. -/
def stored (rs : List ClosedRecord) (t : Tick) : State := { scheduled .producing t with store := running.store.set 0 rs }

/-- `CloseSettlesPlacesAndOpens`: an empty period, a full store, the age limit at its tick and before. -/
theorem test_close :
    answer (.closePeriod [0#8]) configured = some .wrongState ∧ answer (.closePeriod [8#8]) (stored [] 9#32) = some .badValue
      ∧ answer (.closePeriod [7#8]) (stored [] 9#32) = some .notFound ∧ answer (.closePeriod [0#8]) (stored [] 0#32) = some .empty
      ∧ payload (.closePeriod [0#8]) (stored [] 9#32) = [1, 0, 0, 0, 2, 0, 0, 0, 0, 0, 0, 0, 0]
      ∧ payload (.closePeriod [0#8]) (stored [record 4#32, record 5#32, record 6#32] 9#32) = [1, 0, 0, 0, 2, 0, 0, 0, 1, 4, 0, 0, 0] := by decide

theorem test_ageLimit :
    (after (.ageLimit 0) (stored [] 60479999#32)).store[(0 : Fin 8)] = []
      ∧ (after (.ageLimit 0) (stored [] 60480000#32)).store[(0 : Fin 8)].map (·.reason) = [.ageLimit] := by decide

/-- `PeriodStoreIsListedReadAndReleased`: bounds of line, length and offset; a number held and one not. -/
theorem test_period_store :
    answer (.listClosed [8#8]) running = some .badValue
      ∧ payload (.listClosed [0#8]) (stored [record 4#32] 0#32) = [1, 4, 0, 0, 0, 2, 0, 0, 171, 0]
      ∧ answer (.readClosed (bytes [0, 4, 0, 0, 0, 0, 0, 0])) (stored [record 4#32] 0#32) = some .badValue
      ∧ answer (.readClosed (bytes [0, 4, 0, 0, 0, 0, 0, 241])) (stored [record 4#32] 0#32) = some .badValue
      ∧ answer (.readClosed (bytes [0, 5, 0, 0, 0, 0, 0, 240])) (stored [record 4#32] 0#32) = some .notFound
      ∧ answer (.readClosed (bytes [0, 4, 0, 0, 0, 171, 0, 1])) (stored [record 4#32] 0#32) = some .badValue
      ∧ answer (.readClosed (bytes [0, 4, 0, 0, 0, 170, 0, 1])) (stored [record 4#32] 0#32) = some .ok := by decide

theorem test_releaseClosed :
    (after (.releaseClosed (bytes [0, 5, 0, 0, 0])) (stored [record 4#32, record 5#32, record 6#32] 0#32)).store[(0 : Fin 8)].map
        (·.period.number) = [4#32, 6#32]
      ∧ answer (.releaseClosed (bytes [0, 7, 0, 0, 0])) (stored [record 4#32] 0#32) = some .notFound
      ∧ answer (.releaseClosed (bytes [8, 7, 0, 0, 0])) running = some .badValue := by decide

/-- `ReadOpenBuildsAndReadsTheSnapshot`: an offset of 0 and above, the snapshot of the line, of another, and none. -/
theorem test_readOpen :
    answer (.readOpen (bytes [0, 0, 0, 0])) (stored [] 9#32) = some .badValue ∧ answer (.readOpen (bytes [0, 0, 0, 240])) configured = some .wrongState
      ∧ answer (.readOpen (bytes [7, 0, 0, 240])) (stored [] 9#32) = some .notFound
      ∧ ((after (.readOpen (bytes [0, 0, 0, 1])) (stored [] 9#32)).snapshot.map (·.period.classes.producing)) = some 9#32
      ∧ answer (.readOpen (bytes [0, 1, 0, 1])) running = some .notFound
      ∧ answer (.readOpen (bytes [0, 170, 0, 1])) { running with snapshot := some (record 4#32) } = some .ok
      ∧ answer (.readOpen (bytes [0, 171, 0, 1])) { running with snapshot := some (record 4#32) } = some .badValue
      ∧ answer (.readOpen (bytes [1, 1, 0, 1])) { running with snapshot := some (record 4#32) } = some .notFound := by decide

/-! ## Rehearsal, commit and suspend -/

/-- `LineResetAndRehearsalCloseThenReset`: the refusals, the setting held, a change, and a reset with a stoppage carried. -/
theorem test_lineReset_and_rehearsal :
    answer (.lineReset [0#8]) configured = some .wrongState ∧ answer (.lineReset [8#8]) (scheduled .producing 9#32) = some .badValue
      ∧ answer (.lineReset [7#8]) (scheduled .producing 9#32) = some .notFound
      ∧ answer (.setRehearse (bytes [0, 0])) configured = some .wrongState
      ∧ answer (.setRehearse (bytes [0, 2])) (scheduled .producing 9#32) = some .badValue
      ∧ answer (.setRehearse (bytes [7, 1])) (scheduled .producing 9#32) = some .notFound
      ∧ payload (.setRehearse (bytes [0, 0])) (scheduled .producing 9#32) = [1, 0, 0, 0, 1, 0, 0, 0, 0, 0, 0, 0, 0] := by decide

theorem test_lineReset_abandons :
    ((after (.lineReset [0#8]) (scheduled (.stopped stoppage) 9#32)).live? 0).map (·.condition) = some .unobserved
      ∧ (after (.lineReset [0#8]) (scheduled (.stopped stoppage) 9#32)).journal.queue.map (·.body.kind) = [10, 2]
      ∧ ((after (.setRehearse (bytes [0, 1])) (scheduled .producing 9#32)).line? 0).map (·.rehearsal) = some true := by decide

/-- `InjectReportActsAsAReply`: its refusals in order. -/
theorem test_injectReport_refuses :
    answer (.injectReport (bytes [1, 1, 0, 0, 0, 0, 0, 0, 0, 0, 0, 0])) configured = some .wrongState
      ∧ payload (.injectReport (bytes [96, 7, 0, 0, 0, 0, 0, 0, 0, 0, 2, 2])) (scheduled .producing 9#32) = [1]
      ∧ payload (.injectReport (bytes [95, 7, 0, 0, 0, 0, 0, 0, 0, 0, 2, 2])) (scheduled .producing 9#32) = [2]
      ∧ payload (.injectReport (bytes [95, 6, 0, 0, 0, 0, 0, 0, 0, 0, 2, 2])) (scheduled .producing 9#32) = [8]
      ∧ payload (.injectReport (bytes [95, 6, 0, 0, 0, 0, 0, 0, 0, 0, 1, 2])) (scheduled .producing 9#32) = [9]
      ∧ answer (.injectReport (bytes [95, 6, 0, 0, 0, 0, 0, 0, 0, 0, 1, 1])) (scheduled .producing 9#32) = some .notFound
      ∧ answer (.injectReport (bytes [1, 6, 0, 0, 0, 0, 0, 0, 0, 0, 1, 1])) (scheduled .producing 9#32) = some .notRehearsing := by decide

/-- A report and a miss injected on a rehearsing line. -/
theorem test_injectReport_applies :
    payload (.injectReport (bytes [1, 2, 0, 0, 1, 0, 1, 0, 0, 0, 0, 0])) (rehearsing (scheduled .producing 9#32)) = [0, 1, 0, 0, 9, 0, 0, 0]
      ∧ payload (.injectReport (bytes [1, 2, 0, 0, 1, 0, 1, 0, 0, 0, 0, 1])) (rehearsing (scheduled .producing 9#32)) = [2, 1, 1, 0, 9, 0, 0, 0]
      ∧ ((after (.injectReport (bytes [1, 2, 0, 0, 1, 0, 1, 0, 0, 0, 0, 0])) (rehearsing (scheduled .producing 9#32))).live? 0).map
          (·.condition.code) = some 6 := by decide

/-- `CommitChecksThenEntersMonitoring`: no line, a line without stations, without a constraint, without a finish; and entry. -/
theorem test_commit :
    payload (.commit []) running = [255, 1] ∧ payload (.commit []) { configured with stations := [] } = [0, 2]
      ∧ payload (.commit []) { configured with stations := [station 2 2] } = [0, 3]
      ∧ payload (.commit []) { configured with stations := [station 1 1] } = [0, 4]
      ∧ answer (.commit []) (scheduled .producing 9#32) = some .wrongState
      ∧ payload (.commit []) configured = [0, 0, 0, 0, 1, 0, 1, 0, 0, 0]
      ∧ ((after (.commit []) configured).link 0).state = .hunt ∧ linkStations configured.stations 1 = []
      ∧ ((after (.commit []) configured).link 1).state = .idle := by decide

theorem test_roles_filled : rolesFilled configured.stations 0 ∧ ¬rolesFilled running.stations 0 := ⟨⟨by decide, by decide⟩, fun h => by cases h.1⟩

/-- `SuspendClosesEveryLine`. -/
theorem test_suspend :
    answer (.suspend []) configured = some .wrongState
      ∧ payload (.suspend []) (scheduled (.stopped stoppage) 9#32) = [1, 0, 1, 0, 0, 0, 0, 0, 0, 0, 0]
      ∧ (after (.suspend []) (scheduled (.stopped stoppage) 9#32)).journal.queue.map (·.body.kind) = [10, 2]
      ∧ (after (.suspend []) (scheduled .producing 9#32)).periodCounter[(0 : Fin 8)] = 1#32 := by decide

/-- The Journal of two lines: the first line's close and stoppage come before the second's close. -/
theorem test_suspend_two_lines :
    (after (.suspend []) { scheduled (.stopped stoppage) 9#32 with
      lines := (scheduled (.stopped stoppage) 9#32).lines.set 3 (some (lineIn .scheduled (live .producing))) }).journal.queue.map
        (fun n => (n.line, n.body.kind)) = [(some 0, 10), (some 0, 2), (some 3, 10)] := by decide

theorem test_monitoring_part_sound : (scheduled .producing 9#32).partSound := by
  refine ⟨fun l ln h => ?_, fun h => by cases h⟩
  have hl : ∀ l : Fin 8, ∀ ln, (scheduled .producing 9#32).line? l = some ln → ln.live.isSome := by
    unfold State.line?
    decide +revert
  simp [hl l ln h, scheduled, monitoring]

/-! ## Links -/

/-- `SetLinkReplacesTheSettings`: each failing field at a bound, and the settings. -/
theorem test_setLink :
    answer (.setLink (bytes [0, 144, 208, 3, 0, 0, 100, 0, 4, 2])) (scheduled .producing 9#32) = some .wrongState
      ∧ payload (.setLink (bytes [4, 144, 208, 3, 0, 0, 100, 0, 4, 2])) running = [1]
      ∧ payload (.setLink (bytes [3, 145, 208, 3, 0, 0, 100, 0, 4, 2])) running = [2]
      ∧ payload (.setLink (bytes [3, 144, 208, 3, 0, 3, 100, 0, 4, 2])) running = [3]
      ∧ payload (.setLink (bytes [3, 144, 208, 3, 0, 2, 101, 0, 4, 2])) running = [4]
      ∧ payload (.setLink (bytes [3, 144, 208, 3, 0, 2, 208, 7, 1, 2])) running = [5]
      ∧ payload (.setLink (bytes [3, 144, 208, 3, 0, 2, 208, 7, 2, 9])) running = [6]
      ∧ ((after (.setLink (bytes [3, 144, 208, 3, 0, 2, 208, 7, 15, 8])) running).link 3).polarity = .swapped := by decide

/-- `RecordsAreReadAndStatisticsCleared`. -/
theorem test_records_read :
    answer (.readStation [96#8]) configured = some .badValue ∧ answer (.readStation [95#8]) configured = some .notFound
      ∧ (payload (.readStation [1#8]) configured).length = 46 ∧ answer (.readLineStatus [8#8]) configured = some .badValue
      ∧ answer (.readLineStatus [7#8]) configured = some .notFound ∧ (payload (.readLineStatus [0#8]) configured).length = 175 := by decide +kernel

theorem test_readLinkStats :
    answer (.readLinkStats (bytes [4, 0])) running = some .badValue ∧ answer (.readLinkStats (bytes [3, 2])) running = some .badValue
      ∧ ((after (.readLinkStats (bytes [0, 1])) (running.updLink 0 fun L => { L with stats := L.stats.count .timeout })).link 0).stats
        = LinkStats.zero
      ∧ ((after (.readLinkStats (bytes [0, 0])) (running.updLink 0 fun L => { L with stats := L.stats.count .timeout })).link 0).stats.timeouts
        = 1 := by decide

theorem test_inSlot (st : LinkState) (phase : SlotPhase) (slots : List Nat) :
    (polling st phase (1 :: slots)).inSlot 0 { start := 0#32, slots := 1 :: slots, next := 0, validSeen := false, phase := phase } phase
      (reporting 1 1 .run) := ⟨rfl, rfl, rfl⟩

/-- `PollSlotGoesThroughItsPhases`: a round starts, the idle pair is polled, the reply wait begins, a character comes and ends. -/
theorem test_poll_slot :
    ((after (.roundStart 0) ((polling .active .idleCheck [1]).updLink 0 fun L => { L with round := none, nextRound := some 100#32 })).link 0).round.isSome
      ∧ ((after (.idleCheckExpiry 0) (polling .active .idleCheck [1])).link 0).driverEnabled = true
      ∧ ((after (.pollSent 0) (polling .active (.sendingPoll []) [1])).link 0).round.map (·.phase) = some .replyWait
      ∧ ((after (.replyCharacterReceived 0 (.begins startBit)) (polling .active .replyWait [1])).link 0).round.map (·.phase) = some (.receiving [] true)
      ∧ ((after (.replyCharacterReceived 0 (.ends (wires 7#8))) (polling .active (.receiving [] true) [1])).link 0).round.map (·.phase)
        = some (.receiving [7#8] false)
      ∧ ((after (.replyCharacterReceived 0 (.begins startBit)) (polling .active (.receiving [7#8] false) [1])).link 0).round.map (·.phase)
        = some (.receiving [7#8] true) := by decide

/-- Busy skips: the tenth in a row is BUS_STUCK, in each state of the link; the last slot ends the round. -/
theorem test_skippedBusy :
    ((after (.skippedBusy ⟨0, startBit⟩) (polling .active .idleCheck [1, 2])).link 0).busyRun = 1
      ∧ ((after (.skippedBusy ⟨0, startBit⟩) ((polling .hunt .idleCheck [1, 2]).updLink 0 fun L => { L with busyRun := 9 })).link 0).state = .fault .busStuck
      ∧ ((after (.skippedBusy ⟨0, startBit⟩) ((polling (.fault .noReplies) .idleCheck [1, 2]).updLink 0 fun L => { L with busyRun := 9 })).link 0).state
        = .fault .busStuck
      ∧ (after (.skippedBusy ⟨0, startBit⟩) ((polling (.fault .busStuck) .idleCheck [1, 2]).updLink 0 fun L => { L with busyRun := 9 })).journal.queue = []
      ∧ ((after (.skippedBusy ⟨0, startBit⟩) (polling .active .idleCheck [1])).link 0).round = none := by decide

/-- A busy skip of the last slot of a hunt's third dead round flips the polarity and counts the flip; a high level skips nothing; and SWAPPED
exchanges the wires, in sending, in the start bit and in receiving. -/
theorem test_skippedBusy_of_the_last_slot :
    (((after (.skippedBusy ⟨0, startBit⟩) ((polling .hunt .idleCheck [1]).updLink 0 fun L => { L with deadRounds := 2 })).link 0).stats.flips,
        ((after (.skippedBusy ⟨0, startBit⟩) ((polling .hunt .idleCheck [1]).updLink 0 fun L => { L with deadRounds := 2 })).link 0).polarity)
        = (1, .swapped)
      ∧ after (.skippedBusy ⟨0, ⟨true, false⟩⟩) (polling .hunt .idleCheck [1]) = polling .hunt .idleCheck [1]
      ∧ ((after (.skippedBusy ⟨0, ⟨true, false⟩⟩) (swapped (polling .hunt .idleCheck [1, 2]))).link 0).busyRun = 1 := by decide

theorem test_polarity :
    (((after (.idleCheckExpiry 0) (polling .active .idleCheck [1])).link 0).round.map fun r => match r.phase with
        | .sendingPoll d => d.take 2
        | _ => []) = some [⟨0x3C#8, 0xC3#8⟩, ⟨1#8, 0xFE#8⟩]
      ∧ (((after (.idleCheckExpiry 0) (swapped (polling .active .idleCheck [1]))).link 0).round.map fun r => match r.phase with
        | .sendingPoll d => d.take 2
        | _ => []) = some [⟨0xC3#8, 0x3C#8⟩, ⟨0xFE#8, 1#8⟩]
      ∧ ((after (.replyCharacterReceived 0 (.ends ⟨0xF8#8, 7#8⟩)) (swapped (polling .active (.receiving [] true) [1]))).link 0).round.map (·.phase)
        = some (.receiving [7#8] false) := by decide

/-- The first 13 characters of a report of station 1, and its last. -/
def telegram (status : Nat) : List Byte := reportTelegram 1 status 0 0 5 5 0

/-- `ReplyIsJudgedAndTaken`: a good report, a content error, a check error, a short reply, no reply. -/
theorem test_reply_judged :
    judgeReply 1 (telegram 0x87) = .contentError ∧ judgeReply 1 (telegram 0 ++ []) ≠ .checkError ∧ judgeReply 2 (telegram 0) = .checkError
      ∧ (telegram 1).dropLast.length = 13 ∧ (telegram 1).dropLast ++ [(telegram 1).getLastD 0#8] = telegram 1
      ∧ ((after (.replyReceived 0 (wires ((telegram 1).getLastD 0#8))) (polling .hunt (.receiving (telegram 1).dropLast false) [1, 2])).link 0).state
        = .active := by decide +kernel

theorem test_reply_missing :
    ((after (.replyWaitExpiry 0) (polling .active .replyWait [1, 2])).link 0).stats.timeouts = 1
      ∧ ((after (.replyGapExpiry 0) (polling .active (.receiving [7#8] false) [1, 2])).link 0).stats.checkErrors = 1
      ∧ ((after (.replyWaitExpiry 0) (polling .active .replyWait [1, 2])).station? 1).map (·.missRun) = some 1
      ∧ after (.replyReceived 0 (wires 0#8)) (polling .active (.receiving [7#8] false) [1, 2]) = polling .active (.receiving [7#8] false) [1, 2] := by
  decide

/-- The ends of a slot in a phase that is not theirs. -/
theorem test_ends_in_another_phase :
    [SlotPhase.receiving [7#8] false, .receiving [7#8] true].all (fun ph =>
        after (.replyWaitExpiry 0) (polling .active ph [1, 2]) == polling .active ph [1, 2]) = true
      ∧ [SlotPhase.replyWait, .receiving (List.replicate 13 0#8) true].all (fun ph =>
        after (.replyGapExpiry 0) (polling .active ph [1, 2]) == polling .active ph [1, 2]
          && after (.replyReceived 0 (wires 0#8)) (polling .active ph [1, 2]) == polling .active ph [1, 2]) = true := by decide

/-- What a good reply and a miss do beside the record: LINK_CLEARED with the polarity, STATION_REPORTING, STATION_SILENT with LINK latched; the
instant placed back by the age, at most to the last applied report; the category charged up to now. -/
theorem test_outcomes_of_a_slot :
    (after (.replyReceived 0 (wires ((telegram 1).getLastD 0#8))) (polling (.fault .noReplies) (.receiving (telegram 1).dropLast false) [1, 2])).journal.queue.map
        (·.body) = [.linkCleared 0 .normal]
      ∧ ((after (.replyWaitExpiry 0) ((polling .active .replyWait [1, 2]).updStation 1 fun r => { r with missRun := 3 })).journal.queue.map (·.body)).take 1
        = [.stationSilent 1 (some 0#32)]
      ∧ (after (.replyWaitExpiry 0) ((polling .active .replyWait [1, 2]).updStation 1 fun r => { r with missRun := 3 })).attention.flags.link = true :=
  by decide +kernel

theorem test_good_report_is_placed_back :
    (after (.injectReport (bytes [1, 5, 9, 40, 5, 0, 5, 0, 0, 0, 0, 0])) (rehearsing (scheduled .producing 100#32))).station? 1
        = some { reporting 1 1 .operatorStop with
          reasonCode := 9, changeInstant := some 60#32, lastApplied := some 100#32, accrualStart := some 100#32
          baselines := some { infeed := 5#16, outfeed := 5#16, reject := 0#16 }, gap := some { expiry := 393216100#32, taken := false } }
      ∧ ((after (.injectReport (bytes [1, 1, 0, 0, 5, 0, 5, 0, 0, 0, 0, 0])) ((rehearsing (scheduled .unobserved 100#32)).updStation 1 fun r =>
          { r with linkState := .silent, goodRun := 1 })).journal.queue.map (·.body)).take 1 = [.stationReporting 1 100#32]
      ∧ ((after (.injectReport (bytes [1, 1, 0, 0, 5, 0, 5, 0, 0, 0, 0, 0])) ((rehearsing (scheduled .unobserved 100#32)).updStation 1 fun r =>
          { r with linkState := .silent, goodRun := 1 })).live? 0).map (fun lv => (lv.period.entry 1).unseen) = some 100#32 := by decide

/-- A timeout of the last slot of a round, in a rehearsing line, with the link's state, mode and dead rounds given. -/
def dead (st : LinkState) (m : PolarityMode) (n : Nat) : Link :=
  (after (.replyWaitExpiry 0) ((rehearsing (polling st .replyWait [1])).updLink 0 fun L => { L with polarityMode := m, deadRounds := n })).link 0

/-- `RoundsAreListedAndDeadRoundsCounted`: the slot list, and each dead round at its bounds. -/
theorem test_rounds :
    slotList [station 1 1, station 2 2, station 3 0] 0 = [1, 1, 2, 3] ∧ slotList [station 2 1] 0 = [2, 2]
      ∧ (dead .active .auto 0).state = .fault .noReplies ∧ (dead .hunt .auto 1).deadRounds = 2 ∧ (dead .hunt .auto 2).polarity = .swapped
      ∧ (dead .hunt .auto 4).deadRounds = 5 ∧ (dead .hunt .auto 5).state = .fault .noReplies
      ∧ (dead .hunt .normal 1).state = .hunt ∧ (dead .hunt .normal 2).state = .fault .noReplies
      ∧ (dead (.fault .busStuck) .auto 2).polarity = .swapped ∧ (dead (.fault .busStuck) .auto 1).deadRounds = 2
      ∧ (dead (.fault .busStuck) .normal 2).deadRounds = 2 := by decide

/-- A dead round ends by a check error and by a busy skip too, and the last slot's station need not rehearse: its miss is taken first. -/
theorem test_dead_rounds :
    ((after (.replyGapExpiry 0) (polling .active (.receiving [7#8] false) [1])).link 0).state = .fault .noReplies
      ∧ ((after (.replyReceived 0 (wires 0#8)) (polling .hunt (.receiving (List.replicate 13 0#8) false) [1])).link 0).deadRounds = 1
      ∧ judgeReply 1 (List.replicate 13 0#8 ++ [0#8]) = .checkError
      ∧ ((after (.skippedBusy ⟨0, startBit⟩) (polling .active .idleCheck [1])).link 0).state = .fault .noReplies
      ∧ ((after (.replyGapExpiry 0) (polling .active (.receiving [7#8] false) [1])).station? 1).map (·.missRun) = some 1 := by decide +kernel

/-! ## Invariants -/

/-- A live line's account is sound, and a step follows (`AccountStaysSound`, `PeriodStoreStaysSound`, `LinksStaySound`). -/
theorem test_account_sound : (scheduled .producing 9#32).accountSound := by
  refine ⟨fun l lv h => ?_, fun l r h => ?_, fun r h => by cases h⟩
  · have hl : ∀ l : Fin 8, l ≠ 0 → (scheduled .producing 9#32).live? l = none := by decide
    by_cases e : l = 0
    · subst e
      cases h
      refine ⟨rfl, ⟨by decide, by decide⟩, ⟨by decide, .nil, by decide⟩, ⟨rfl, rfl⟩, fun _ => ⟨⟨rfl, rfl⟩, ⟨rfl, rfl⟩⟩⟩
    · rw [hl l e] at h; cases h
  · have hs : ∀ l : Fin 8, (scheduled .producing 9#32).store[l] = [] := by decide
    rw [hs l] at h
    cases h

theorem test_store_and_links_sound : running.storeSound ∧ running.linksSound := by
  refine ⟨fun l => by revert l; decide, fun k => ?_⟩
  have h : ∀ k, running.link k = Link.reset := by decide
  rw [h k]
  exact ⟨by decide, by decide, fun _ => rfl⟩

/-- The commands that `SettingsAreChangedByTheirCommandsAlone` is about, and one that it leaves out. -/
theorem test_latched_flags_stay :
    ∀ i ∈ [Instr.closePeriod [0#8], .suspend [], .windowExpiry 0, .declareLineMode (bytes [0, 1, 0, 0, 0, 0, 0, 0, 0]), .takeNotices [1#8]],
      (after i (((scheduled .producing 9#32).notify none (.gap 1)).latch .stop)).attention.flags.stop = true := by decide

theorem test_carriesAny : carriesAny .runClockTick = false ∧ carriesAny (.setLink []) = false ∧ carriesAny .resetPin = true := by decide

end Sys2Proof.Tests
end

section
/-! UNDEFINE_LINE (R2) and REMOVE_STATION (R5): the answer of each block case by case, what a sound enrollment says of one record of it, and
the obligation that follows from these. -/

namespace Sys2Proof.Machine

/-! ## From a block's answer to the command -/

/-- A request of an accepted length, while the host link is ready, leaves and answers what its block leaves and answers. -/
theorem exec_of_requestBlock {i : Instr} {kind : Byte} {lengths : List Nat} {p : List Byte} {s t : State} {reply : Reply}
    (hform : requestForm i = some (kind, lengths, p)) (hready : s.ready) (hlen : p.length ∈ lengths)
    (hblock : requestBlock i p s = (t, reply)) : exec i s = .next (t.respond kind reply) := by
  rw [exec_ready hform hready hlen, hblock]

section
variable {p : List Byte} {s t : State} {reply : Reply}

theorem exec_of_undefineLine (hready : s.ready) (hlen : p.length = 1) (hblock : undefineLine p s = (t, reply)) :
    exec (.undefineLine p) s = .next (t.respond 0x02#8 reply) :=
  exec_of_requestBlock (rfl : requestForm (.undefineLine p) = some (0x02#8, [1], p)) hready (List.mem_singleton.mpr hlen) hblock

theorem exec_of_removeStation (hready : s.ready) (hlen : p.length = 1) (hblock : removeStation p s = (t, reply)) :
    exec (.removeStation p) s = .next (t.respond 0x04#8 reply) :=
  exec_of_requestBlock (rfl : requestForm (.removeStation p) = some (0x04#8, [1], p)) hready (List.mem_singleton.mpr hlen) hblock

end

/-! ## UNDEFINE_LINE -/

section
variable {p : List Byte} {s : State} {l : Fin 8}

theorem undefineLine_monitoring (hm : s.partState = .monitoring) : undefineLine p s = (s, .refuse .wrongState) := by
  simp only [undefineLine, hm]

theorem undefineLine_badValue (hc : s.partState = .configuring) (hl : 7 < u8 p 0) : undefineLine p s = (s, .badValue) := by
  simp only [undefineLine, hc, lineNo_none hl]

theorem undefineLine_notFound (hc : s.partState = .configuring) (hl : u8 p 0 = l.val) (hnone : s.line? l = none) :
    undefineLine p s = (s, .refuse .notFound) := by
  simp only [undefineLine, hc, lineNo_val hl, hnone]

/-- A defined line: NOT_EMPTY while a station is enrolled on it, else its definition is deleted. -/
theorem undefineLine_defined (hc : s.partState = .configuring) (hl : u8 p 0 = l.val) (hdef : (s.line? l).isSome) :
    undefineLine p s = if s.stations.any (·.line == l) then (s, .refuse .notEmpty) else (s.setLine l none, .ok) := by
  obtain ⟨ln, hln⟩ := Option.isSome_iff_exists.mp hdef
  simp only [undefineLine, hc, lineNo_val hl, hln]

theorem undefineLine_notEmpty (hc : s.partState = .configuring) (hl : u8 p 0 = l.val) (hdef : (s.line? l).isSome)
    (hon : ∃ r ∈ s.stations, r.line = l) : undefineLine p s = (s, .refuse .notEmpty) := by
  rw [undefineLine_defined hc hl hdef, if_pos (by simpa using hon)]

theorem undefineLine_ok (hc : s.partState = .configuring) (hl : u8 p 0 = l.val) (hdef : (s.line? l).isSome)
    (hoff : ∀ r ∈ s.stations, r.line ≠ l) : undefineLine p s = (s.setLine l none, .ok) := by
  rw [undefineLine_defined hc hl hdef, if_neg (by simpa using hoff)]

end

/-! ## REMOVE_STATION -/

section
variable {p : List Byte} {s : State}

/-- No record has the number, in the two spellings: by the lookup and by the list. -/
theorem State.station?_eq_none_iff {n : Nat} : s.station? n = none ↔ ∀ r ∈ s.stations, r.number ≠ n := by
  simp [State.station?]

theorem removeStation_monitoring (hm : s.partState = .monitoring) : removeStation p s = (s, .refuse .wrongState) := by
  simp only [removeStation, hm]

theorem removeStation_badValue (hc : s.partState = .configuring) (hn : 95 < u8 p 0) : removeStation p s = (s, .badValue) := by
  simp only [removeStation, hc, if_pos hn]

theorem removeStation_notFound (hc : s.partState = .configuring) (hn : u8 p 0 ≤ 95) (hnone : ∀ r ∈ s.stations, r.number ≠ u8 p 0) :
    removeStation p s = (s, .refuse .notFound) := by
  simp only [removeStation, hc, if_neg (Nat.not_lt.mpr hn), State.station?_eq_none_iff.mpr hnone]

theorem removeStation_ok (hc : s.partState = .configuring) (hn : u8 p 0 ≤ 95) (hsome : ∃ r ∈ s.stations, r.number = u8 p 0) :
    removeStation p s = ({ s with stations := s.stations.eraseP fun r => r.number == u8 p 0 }, .ok) := by
  obtain ⟨q, hq, hnumber⟩ := hsome
  have hne : s.station? (u8 p 0) ≠ none := fun hnone => State.station?_eq_none_iff.mp hnone q hq hnumber
  obtain ⟨r, hr⟩ := Option.ne_none_iff_exists'.mp hne
  simp only [removeStation, hc, if_neg (Nat.not_lt.mpr hn), hr]

end

/-! ## One record of a sound enrollment -/

theorem Station.apart_symm {a b : Station} (h : a.apart b) : b.apart a := by
  obtain ⟨hnumber, haddress, hposition⟩ := h
  exact ⟨hnumber.symm, fun ⟨h1, h2⟩ => haddress ⟨h1.symm, h2.symm⟩, fun ⟨h1, h2⟩ => hposition ⟨h1.symm, h2.symm⟩⟩

section
variable {stations before after : List Station} {r : Station}

/-- Where no two records share an identity, the records around one of them share none with it. -/
theorem exists_split_apart (hs : stations.Pairwise Station.apart) (hr : r ∈ stations) :
    ∃ before after, stations = before ++ r :: after ∧ ∀ q ∈ before ++ after, q.apart r := by
  obtain ⟨before, after, rfl⟩ := List.append_of_mem hr
  have hmid := (List.pairwise_middle Station.apart_symm).mp hs
  exact ⟨before, after, rfl, fun q hq => Station.apart_symm (List.rel_of_pairwise_cons hmid hq)⟩

/-- Keeping the records of other numbers takes out just the one record of this number. -/
theorem filter_number_split (h : ∀ q ∈ before ++ after, q.apart r) :
    (before ++ r :: after).filter (fun q => q.number != r.number) = before ++ after := by
  have hkeep : (before ++ after).filter (fun q => q.number != r.number) = before ++ after :=
    List.filter_eq_self.mpr fun q hq => bne_iff_ne.mpr (h q hq).1
  simpa using hkeep

/-- Erasing the first record of this number takes out the same one. -/
theorem eraseP_number_split (h : ∀ q ∈ before ++ after, q.apart r) :
    (before ++ r :: after).eraseP (fun q => q.number == r.number) = before ++ after := by
  have hbefore : ∀ q ∈ before, ¬(q.number == r.number) = true := fun q hq =>
    mt beq_iff_eq.mp (h q (List.mem_append_left _ hq)).1
  have hself : (r.number == r.number) = true := beq_self_eq_true _
  simp only [List.eraseP_append_right _ hbefore, List.eraseP_cons, hself, cond_true]

theorem enrolledOn_split : enrolledOn (before ++ r :: after) r.link = enrolledOn (before ++ after) r.link + 1 := by
  simp [enrolledOn, Nat.add_assoc]

/-- REMOVE_STATION erases the first record of the number; where numbers are not shared, that is every record of the number. -/
theorem eraseP_number_eq_filter (hs : stations.Pairwise Station.apart) (hr : r ∈ stations) :
    stations.eraseP (fun q => q.number == r.number) = stations.filter fun q => q.number != r.number := by
  obtain ⟨before, after, rfl, h⟩ := exists_split_apart hs hr
  rw [eraseP_number_split h, filter_number_split h]

/-- Without the record, its link holds one station less. -/
theorem enrolledOn_filter_number (hs : stations.Pairwise Station.apart) (hr : r ∈ stations) :
    enrolledOn stations r.link = enrolledOn (stations.filter fun q => q.number != r.number) r.link + 1 := by
  obtain ⟨before, after, rfl, h⟩ := exists_split_apart hs hr
  rw [filter_number_split h, enrolledOn_split]

/-- Without the record, its three identities are free (R5). -/
theorem filter_number_apart (hs : stations.Pairwise Station.apart) (hr : r ∈ stations) :
    ∀ q ∈ stations.filter fun q => q.number != r.number, q.apart r := by
  obtain ⟨before, after, rfl, h⟩ := exists_split_apart hs hr
  rwa [filter_number_split h]

end

/-- In a sound enrollment REMOVE_STATION deletes the record of its number, and no other. -/
theorem removeStation_enrolled {p : List Byte} {s : State} {r : Station} (hs : s.enrollmentSound) (hc : s.partState = .configuring)
    (hr : r ∈ s.stations) (hnumber : r.number = u8 p 0) :
    removeStation p s = ({ s with stations := s.stations.filter fun q => q.number != u8 p 0 }, .ok) := by
  obtain ⟨hapart, _, hrecords, _⟩ := hs
  obtain ⟨⟨hn, _⟩, _⟩ := hrecords r hr
  rw [removeStation_ok hc (hnumber ▸ hn) ⟨r, hr, hnumber⟩, ← hnumber, eraseP_number_eq_filter hapart hr]

/-- Settles O31: each clause is a case of its block's answer; what REMOVE_STATION frees follows from a sound enrollment, in which the
records around the removed one share no identity with it. -/
theorem undefineAndRemove : Obligations.UndefineAndRemove := by
  intro s p hready hlen
  refine ⟨fun hm => ⟨?_, ?_⟩, fun hc => ⟨fun hl => ?_, fun l hl => ⟨fun hnone => ?_, fun hdef hon => ?_, fun hdef hoff => ?_⟩,
    fun hn => ?_, fun hn hnone => ?_, fun hs r hr hnumber => ⟨?_, ?_⟩⟩⟩
  · exact exec_of_undefineLine hready hlen (undefineLine_monitoring hm)
  · exact exec_of_removeStation hready hlen (removeStation_monitoring hm)
  · exact exec_of_undefineLine hready hlen (undefineLine_badValue hc hl)
  · exact exec_of_undefineLine hready hlen (undefineLine_notFound hc hl hnone)
  · exact exec_of_undefineLine hready hlen (undefineLine_notEmpty hc hl hdef hon)
  · exact exec_of_undefineLine hready hlen (undefineLine_ok hc hl hdef hoff)
  · exact exec_of_removeStation hready hlen (removeStation_badValue hc hn)
  · exact exec_of_removeStation hready hlen (removeStation_notFound hc hn hnone)
  · exact exec_of_removeStation hready hlen (removeStation_enrolled hs hc hr hnumber)
  · obtain ⟨hapart, _⟩ := hs
    rw [← hnumber]
    exact ⟨enrolledOn_filter_number hapart hr, filter_number_apart hapart hr⟩

end Sys2Proof.Machine
end

section
/-! The Cause Map: the entry a key finds in a sound map and the root a lookup gives (R46), the entry a MAP_CAUSE payload carries and the map
MAP_CAUSE leaves (R47), and the two obligations that follow from these. -/

namespace Sys2Proof.Machine

/-! ## Keys -/

theorem CauseEntry.sameKey_iff {a b : CauseEntry} : a.sameKey b = true ↔ a.station = b.station ∧ a.kind = b.kind ∧ a.code = b.code := by
  simp [CauseEntry.sameKey, and_assoc]

theorem CodeKind.code_eq_iff {a b : CodeKind} : a.code = b.code ↔ a = b := by
  cases a <;> cases b <;> decide

theorem CodeKind.code_le_one (k : CodeKind) : k.code ≤ 1 := by
  cases k <;> decide

/-- Among entries in range the place in key order is the key: a code is below 65536 and a code kind is 0 or 1, so the three parts of a rank do
not overlap. -/
theorem CauseEntry.rank_eq_iff {a b : CauseEntry} (ha : a.inRange) (hb : b.inRange) : a.rank = b.rank ↔ a.sameKey b = true := by
  obtain ⟨_, hacode, _⟩ := ha
  obtain ⟨_, hbcode, _⟩ := hb
  have hakind := a.kind.code_le_one
  have hbkind := b.kind.code_le_one
  rw [sameKey_iff, ← CodeKind.code_eq_iff]
  unfold CauseEntry.rank
  omega

theorem mem_append_cons_iff {α : Type} {before after : List α} {a x : α} :
    x ∈ before ++ a :: after ↔ x = a ∨ x ∈ before ++ after :=
  List.perm_middle.mem_iff.trans List.mem_cons

section
variable {m : List CauseEntry} {e q : CauseEntry}

/-- Around one entry of a sound map stand entries of other ranks. -/
theorem causeMapSound.exists_split (hm : causeMapSound m) (hq : q ∈ m) :
    ∃ before after, m = before ++ q :: after ∧ ∀ x ∈ before ++ after, x.rank ≠ q.rank := by
  obtain ⟨_, hascending, _⟩ := hm
  obtain ⟨before, after, rfl⟩ := List.append_of_mem hq
  have hdistinct := hascending.imp fun {a b : CauseEntry} (h : a.rank < b.rank) => Nat.ne_of_lt h
  have hmiddle := (List.pairwise_middle fun {a b : CauseEntry} (h : a.rank ≠ b.rank) => h.symm).mp hdistinct
  exact ⟨before, after, rfl, fun x hx => (List.rel_of_pairwise_cons hmiddle hx).symm⟩

/-- A sound map holds one entry of a key at most (R45). -/
theorem causeMapSound.eq_of_sameKey (hm : causeMapSound m) (he : e ∈ m) (hq : q ∈ m) (h : e.sameKey q = true) : e = q := by
  obtain ⟨before, after, rfl, hother⟩ := hm.exists_split hq
  obtain ⟨_, _, hrange⟩ := hm
  have hrank : e.rank = q.rank := (CauseEntry.rank_eq_iff (hrange e he) (hrange q hq)).mpr h
  exact (mem_append_cons_iff.mp he).resolve_right fun hrest => hother e hrest hrank

end

/-! ## Lookups -/

section
variable {m : List CauseEntry} {n : Nat} {kind : CodeKind} {code : Nat} {e : CauseEntry}

theorem mapEntry_eq_none_iff : mapEntry m n kind code = none ↔ ∀ e ∈ m, ¬(e.station = n ∧ e.kind = kind ∧ e.code = code) := by
  simp [mapEntry]

/-- The entry a key finds in a sound map is the one that has it. -/
theorem mapEntry_eq_some (hm : causeMapSound m) (he : e ∈ m) (hkey : e.station = n ∧ e.kind = kind ∧ e.code = code) :
    mapEntry m n kind code = some e := by
  have hne : mapEntry m n kind code ≠ none := fun hnone => mapEntry_eq_none_iff.mp hnone e he hkey
  obtain ⟨q, hq⟩ := Option.ne_none_iff_exists'.mp hne
  have hmem : q ∈ m := List.mem_of_find?_eq_some hq
  have hqkey : q.station = n ∧ q.kind = kind ∧ q.code = code := by simpa [and_assoc] using List.find?_some hq
  obtain ⟨rfl, rfl, rfl⟩ := hkey
  rw [hq, hm.eq_of_sameKey hmem he (CauseEntry.sameKey_iff.mpr hqkey)]

theorem lookupCause_own (hown : mapEntry m n kind code = some e) :
    lookupCause m n kind code = { station := n, cause := e.cause, cls := e.cls } := by
  simp only [lookupCause, hown]

theorem lookupCause_any (hown : mapEntry m n kind code = none) (hany : mapEntry m 255 kind code = some e) :
    lookupCause m n kind code = { station := n, cause := e.cause, cls := e.cls } := by
  simp only [lookupCause, hown, hany]

theorem lookupCause_unmapped (hown : mapEntry m n kind code = none) (hany : mapEntry m 255 kind code = none) :
    lookupCause m n kind code = { station := n, cause := 255, cls := .unassigned } := by
  simp only [lookupCause, hown, hany]
  rfl

end

section
variable {m : List CauseEntry} {r : Station}

theorem readStop_fault (hlink : r.linkState = .reporting) (hr : r.reported = some .fault) :
    readStop m r = lookupCause m r.number .fault r.faultCode := by
  simp only [readStop, hlink, hr]

theorem readStop_operatorStop (hlink : r.linkState = .reporting) (hr : r.reported = some .operatorStop) (hreason : r.reasonCode ≠ 0) :
    readStop m r = lookupCause m r.number .operator r.reasonCode := by
  simp only [readStop, hlink, hr, if_neg hreason]

theorem readStop_operatorStop_zero (hlink : r.linkState = .reporting) (hr : r.reported = some .operatorStop) (hreason : r.reasonCode = 0) :
    readStop m r = { station := r.number, cause := 249, cls := .operator } := by
  simp only [readStop, hlink, hr, if_pos hreason]
  rfl

end

/-- Settles O27: a FAULT and an OPERATOR_STOP with a reason are looked up, and a sound map finds the entry of a key that has one. -/
theorem lookupPrefersTheStationsOwnEntry : Obligations.LookupPrefersTheStationsOwnEntry := by
  intro m r hm hlink _
  refine ⟨fun kind code hstop => ?_, readStop_operatorStop_zero hlink⟩
  have hread : readStop m r = lookupCause m r.number kind code := by
    rcases hstop with ⟨hr, rfl, rfl⟩ | ⟨hr, rfl, rfl, hreason⟩
    · exact readStop_fault hlink hr
    · exact readStop_operatorStop hlink hr hreason
  rw [hread]
  refine ⟨fun e he hstation hkind hcode => ?_, fun hown => ⟨fun e he hstation hkind hcode => ?_, fun hany => ?_⟩⟩
  · exact lookupCause_own (mapEntry_eq_some hm he ⟨hstation, hkind, hcode⟩)
  · exact lookupCause_any (mapEntry_eq_none_iff.mpr hown) (mapEntry_eq_some hm he ⟨hstation, hkind, hcode⟩)
  · exact lookupCause_unmapped (mapEntry_eq_none_iff.mpr hown) (mapEntry_eq_none_iff.mpr hany)

/-! ## The entry of a MAP_CAUSE payload (R47 step 1) -/

theorem stationKey_some {n : Nat} (h : n ≤ 95 ∨ n = 255) : stationKey n = some n := if_pos h

theorem stationKey_none {n : Nat} (h : 95 < n ∧ n ≠ 255) : stationKey n = none := if_neg (by omega)

theorem CodeKind.ofCode_code (k : CodeKind) : CodeKind.ofCode k.code = some k := by
  cases k <;> rfl

theorem CodeKind.ofCode_none {n : Nat} (h : 1 < n) : CodeKind.ofCode n = none := by
  unfold CodeKind.ofCode
  split
  case h_3 => rfl
  all_goals omega

theorem CauseClass.ofMapCode_code {c : CauseClass} (hoverrun : c ≠ .overrun) (hplanned : c ≠ .planned) :
    CauseClass.ofMapCode c.code = some c := by
  cases c
  case overrun => exact absurd rfl hoverrun
  case planned => exact absurd rfl hplanned
  all_goals rfl

theorem CauseClass.ofMapCode_none {n : Nat} (h : n = 6 ∨ n = 7 ∨ 8 < n) : CauseClass.ofMapCode n = none := by
  unfold CauseClass.ofMapCode
  split
  case h_8 => rfl
  all_goals omega

section
variable {p : List Byte} {kind : CodeKind} {cls : CauseClass}

theorem causeKey_some (hstation : u8 p 0 ≤ 95 ∨ u8 p 0 = 255) (hkind : u8 p 1 = kind.code) (hcode : kind = .operator → u8 p 2 ≠ 0) :
    causeKey p = some (u8 p 0, kind, u8 p 2) := by
  unfold causeKey
  rw [stationKey_some hstation, hkind, CodeKind.ofCode_code]
  cases kind with
  | fault => rfl
  | operator => exact if_neg (hcode rfl)

theorem causeKey_none_of_station (h : 95 < u8 p 0 ∧ u8 p 0 ≠ 255) : causeKey p = none := by
  unfold causeKey
  rw [stationKey_none h]
  cases CodeKind.ofCode (u8 p 1) <;> rfl

theorem causeKey_none_of_kind (h : 1 < u8 p 1) : causeKey p = none := by
  unfold causeKey
  rw [CodeKind.ofCode_none h]
  cases stationKey (u8 p 0) <;> rfl

/-- The code of an operator stop without a reason, 0, is no key. -/
theorem causeKey_none_of_code (h : u8 p 1 = 1 ∧ u8 p 2 = 0) : causeKey p = none := by
  obtain ⟨hkind, hcode⟩ := h
  unfold causeKey
  rw [hkind, show CodeKind.ofCode 1 = some .operator from rfl]
  cases stationKey (u8 p 0) with
  | none => rfl
  | some k => exact if_pos hcode

theorem causeEntryOf_some (hkey : causeKey p = some (u8 p 0, kind, u8 p 2)) (hlow : 1 ≤ u8 p 3) (hhigh : u8 p 3 ≤ 239)
    (hcls : CauseClass.ofMapCode (u8 p 4) = some cls) :
    causeEntryOf p = some { station := u8 p 0, kind := kind, code := u8 p 2, cause := u8 p 3, cls := cls } := by
  unfold causeEntryOf
  rw [hkey, hcls]
  exact if_pos ⟨hlow, hhigh⟩

theorem causeEntryOf_none_of_key (h : causeKey p = none) : causeEntryOf p = none := by
  unfold causeEntryOf
  rw [h]
  cases CauseClass.ofMapCode (u8 p 4) <;> rfl

theorem causeEntryOf_none_of_class (h : CauseClass.ofMapCode (u8 p 4) = none) : causeEntryOf p = none := by
  unfold causeEntryOf
  rw [h]
  cases causeKey p <;> rfl

theorem causeEntryOf_none_of_cause (h : u8 p 3 < 1 ∨ 239 < u8 p 3) : causeEntryOf p = none := by
  cases hkey : causeKey p with
  | none => exact causeEntryOf_none_of_key hkey
  | some key =>
    cases hcls : CauseClass.ofMapCode (u8 p 4) with
    | none => exact causeEntryOf_none_of_class hcls
    | some cls =>
      unfold causeEntryOf
      rw [hkey, hcls]
      exact if_neg (by omega)

theorem causeEntryOf_none (h : (95 < u8 p 0 ∧ u8 p 0 ≠ 255) ∨ 1 < u8 p 1 ∨ (u8 p 1 = 1 ∧ u8 p 2 = 0) ∨ u8 p 3 < 1 ∨ 239 < u8 p 3
    ∨ u8 p 4 = 6 ∨ u8 p 4 = 7 ∨ 8 < u8 p 4) : causeEntryOf p = none := by
  rcases h with hstation | hkind | hcode | hlow | hhigh | hcls
  · exact causeEntryOf_none_of_key (causeKey_none_of_station hstation)
  · exact causeEntryOf_none_of_key (causeKey_none_of_kind hkind)
  · exact causeEntryOf_none_of_key (causeKey_none_of_code hcode)
  · exact causeEntryOf_none_of_cause (.inl hlow)
  · exact causeEntryOf_none_of_cause (.inr hhigh)
  · exact causeEntryOf_none_of_class (CauseClass.ofMapCode_none hcls)

end

/-! ## The map after MAP_CAUSE (R47 steps 2 to 4) -/

/-- The map `m'` is sound and holds `e`, and beside it what `m` holds of other keys. -/
def putsEntry (e : CauseEntry) (m m' : List CauseEntry) : Prop :=
  causeMapSound m' ∧ ∀ q, q ∈ m' ↔ q = e ∨ (q ∈ m ∧ ¬q.sameKey e = true)

section
variable {m : List CauseEntry} {e : CauseEntry}

theorem modifyFirst_append_cons {α : Type} {f : α → Bool} {g : α → α} {before after : List α} {a : α} (hbefore : ∀ x ∈ before, ¬f x = true)
    (ha : f a = true) : modifyFirst f g (before ++ a :: after) = before ++ g a :: after := by
  induction before with
  | nil => simp only [List.nil_append, modifyFirst, if_pos ha]
  | cons x before ih =>
    rw [List.forall_mem_cons] at hbefore
    simp only [List.cons_append, modifyFirst, if_neg hbefore.1, ih hbefore.2]

/-- An entry in the place of one with its key keeps the ranks as they stand, so the map stays sound. -/
theorem modifyFirst_putsEntry (hm : causeMapSound m) (he : e.inRange) (hheld : m.any (·.sameKey e) = true) :
    putsEntry e m (modifyFirst (·.sameKey e) (fun _ => e) m) := by
  obtain ⟨q, hq, hkey⟩ := List.any_eq_true.mp hheld
  obtain ⟨before, after, rfl, hother⟩ := hm.exists_split hq
  obtain ⟨hlength, hascending, hrange⟩ := hm
  have hrank : q.rank = e.rank := (CauseEntry.rank_eq_iff (hrange q hq) he).mpr hkey
  have hrest : ∀ x ∈ before ++ after, x.inRange := fun x hx => hrange x (mem_append_cons_iff.mpr (.inr hx))
  have hapart : ∀ x ∈ before ++ after, ¬x.sameKey e = true := fun x hx hsame =>
    hother x hx (((CauseEntry.rank_eq_iff (hrest x hx) he).mpr hsame).trans hrank.symm)
  rw [modifyFirst_append_cons (fun x hx => hapart x (List.mem_append_left _ hx)) hkey]
  refine ⟨⟨by simpa using hlength, ?_, fun x hx => ?_⟩, fun x => ?_⟩
  · rw [← List.pairwise_map (f := CauseEntry.rank)] at hascending ⊢
    simpa [hrank] using hascending
  · rcases mem_append_cons_iff.mp hx with rfl | hx
    · exact he
    · exact hrest x hx
  · rw [mem_append_cons_iff, mem_append_cons_iff]
    refine or_congr_right ⟨fun hx => ⟨.inr hx, hapart x hx⟩, fun ⟨hx, hne⟩ => hx.resolve_left ?_⟩
    rintro rfl
    exact hne hkey

theorem insertCause_perm (e : CauseEntry) (m : List CauseEntry) : (insertCause e m).Perm (e :: m) := by
  induction m with
  | nil => exact .refl _
  | cons q m ih =>
    unfold insertCause
    split
    · exact .refl _
    · exact (ih.cons q).trans (.swap e q m)

/-- Added where no entry has its rank, an entry stands in its place in strictly ascending order. -/
theorem insertCause_ascending (hm : m.Pairwise fun a b => a.rank < b.rank) (hfree : ∀ q ∈ m, q.rank ≠ e.rank) :
    (insertCause e m).Pairwise fun a b => a.rank < b.rank := by
  induction m with
  | nil => exact List.pairwise_singleton _ e
  | cons q m ih =>
    rw [List.forall_mem_cons] at hfree
    obtain ⟨hqfree, hmfree⟩ := hfree
    obtain ⟨hqm, hrest⟩ := List.pairwise_cons.mp hm
    unfold insertCause
    split
    case isTrue hlt =>
      exact List.pairwise_cons.mpr ⟨List.forall_mem_cons.mpr ⟨hlt, fun x hx => Nat.lt_trans hlt (hqm x hx)⟩, hm⟩
    case isFalse hge =>
      refine List.pairwise_cons.mpr ⟨fun x hx => ?_, ih hrest hmfree⟩
      rcases List.mem_cons.mp ((insertCause_perm e m).mem_iff.mp hx) with rfl | hx
      · omega
      · exact hqm x hx

/-- With room in the map and its key free, an entry is added in key order. -/
theorem insertCause_putsEntry (hm : causeMapSound m) (he : e.inRange) (hfree : ∀ q ∈ m, ¬q.sameKey e = true) (hroom : m.length < 512) :
    putsEntry e m (insertCause e m) := by
  obtain ⟨_, hascending, hrange⟩ := hm
  have hranks : ∀ q ∈ m, q.rank ≠ e.rank := fun q hq hrank => hfree q hq ((CauseEntry.rank_eq_iff (hrange q hq) he).mp hrank)
  have hmem : ∀ q, q ∈ insertCause e m ↔ q = e ∨ q ∈ m := fun q => (insertCause_perm e m).mem_iff.trans List.mem_cons
  refine ⟨⟨?_, insertCause_ascending hascending hranks, fun q hq => ?_⟩, fun q => ?_⟩
  · rw [(insertCause_perm e m).length_eq, List.length_cons]
    omega
  · rcases (hmem q).mp hq with rfl | hq
    · exact he
    · exact hrange q hq
  · rw [hmem q, and_iff_left_of_imp (hfree q)]

end

/-! ## MAP_CAUSE -/

section
variable {p : List Byte} {s : State} {e : CauseEntry}

theorem exec_of_mapCause {t : State} {reply : Reply} (hready : s.ready) (hlen : p.length = 5) (hblock : mapCause p s = (t, reply)) :
    exec (.mapCause p) s = .next (t.respond 0x23#8 reply) :=
  exec_of_requestBlock (rfl : requestForm (.mapCause p) = some (0x23#8, [5], p)) hready (List.mem_singleton.mpr hlen) hblock

theorem mapCause_badValue (hentry : causeEntryOf p = none) : mapCause p s = (s, .badValue) := by
  simp only [mapCause, hentry]

theorem mapCause_full (hentry : causeEntryOf p = some e) (hfree : ∀ q ∈ s.causeMap, ¬q.sameKey e = true) (hfull : s.causeMap.length = 512) :
    mapCause p s = (s, .refuse .full) := by
  have hnew : ¬s.causeMap.any (·.sameKey e) = true := by simpa using hfree
  have hcapacity : causeCapacity ≤ s.causeMap.length := Nat.le_of_eq hfull.symm
  simp only [mapCause, hentry, if_neg hnew, if_pos hcapacity]

/-- A request in range whose key is held, or for which there is room, puts its entry in the map. -/
theorem mapCause_ok (hm : causeMapSound s.causeMap) (hentry : causeEntryOf p = some e)
    (hplace : (∃ q ∈ s.causeMap, q.sameKey e = true) ∨ s.causeMap.length < 512) :
    ∃ m, mapCause p s = ({ s with causeMap := m }, .ok) ∧ putsEntry e s.causeMap m := by
  have he := causeEntryOf_inRange hentry
  by_cases hheld : s.causeMap.any (·.sameKey e) = true
  · exact ⟨_, by simp only [mapCause, hentry, if_pos hheld], modifyFirst_putsEntry hm he hheld⟩
  · have hfree : ∀ q ∈ s.causeMap, ¬q.sameKey e = true := by simpa using hheld
    have hroom : s.causeMap.length < 512 := hplace.resolve_left fun ⟨q, hq, hkey⟩ => hfree q hq hkey
    have hcapacity : ¬causeCapacity ≤ s.causeMap.length := Nat.not_le.mpr hroom
    exact ⟨_, by simp only [mapCause, hentry, if_neg hheld, if_neg hcapacity], insertCause_putsEntry hm he hfree hroom⟩

end

/-- Settles O25: the fields name an entry or none; an entry goes in the place of the one with its key, or, with room, in its place in key
order. -/
theorem mapCauseReplacesOrAdds : Obligations.MapCauseReplacesOrAdds := by
  intro s p hready
  refine ⟨fun hlen => ?_, fun hlen hm => ⟨fun kind cls hstation hkind hcode hlow hhigh hcls hoverrun hplanned => ?_, fun hbad => ?_⟩⟩
  · exact exec_badLength (rfl : requestForm (.mapCause p) = some (0x23#8, [5], p)) hready (mt List.mem_singleton.mp hlen)
  · have hentry := causeEntryOf_some (causeKey_some hstation hkind hcode) hlow hhigh (hcls ▸ CauseClass.ofMapCode_code hoverrun hplanned)
    simp only [← CauseEntry.sameKey_iff (b := { station := u8 p 0, kind := kind, code := u8 p 2, cause := u8 p 3, cls := cls })]
    refine ⟨fun hfree hfull => exec_of_mapCause hready hlen (mapCause_full hentry hfree hfull), fun hplace => ?_⟩
    obtain ⟨m, hblock, hsound, hmem⟩ := mapCause_ok hm hentry hplace
    exact ⟨m, exec_of_mapCause hready hlen hblock, hsound, hmem⟩
  · exact exec_of_mapCause hready hlen (mapCause_badValue (causeEntryOf_none hbad))

end Sys2Proof.Machine
end

section
/-! DECLARE_LINE_MODE (R53): the answer of its block check by check, what a declaration does by the mode held (R55, R56, R58, R62), and the
obligation that follows from these. -/

namespace Sys2Proof.Machine

/-! ## The mode that the fields declare (R53 steps 4 and 5) -/

section
variable {cause target seconds : Nat}

theorem modeOf_scheduled : modeOf 0 cause target seconds = some .scheduled := rfl

theorem modeOf_notScheduled : modeOf 1 cause target seconds = some .notScheduled := rfl

theorem modeOf_badMode {mode : Nat} (h : 3 < mode) : modeOf mode cause target seconds = none := by
  match mode, h with
  | _ + 4, _ => rfl

theorem modeOf_outOfRange {mode : Nat} (hmode : mode = 2 ∨ mode = 3) (h : cause < 1 ∨ 239 < cause ∨ 86400 < seconds) :
    modeOf mode cause target seconds = none := by
  have hrange : ¬((1 ≤ cause ∧ cause ≤ 239) ∧ seconds ≤ 86400) := by omega
  rcases hmode with rfl | rfl <;> simpa [modeOf] using hrange

theorem modeOf_planned (hlow : 1 ≤ cause) (hhigh : cause ≤ 239) (hseconds : seconds ≤ 86400) :
    modeOf 2 cause target seconds = some (.planned cause (100 * seconds)) := by
  simp [modeOf, hlow, hhigh, hseconds]

theorem modeOf_changeover (hlow : 1 ≤ cause) (hhigh : cause ≤ 239) (hseconds : seconds ≤ 86400) :
    modeOf 3 cause target seconds = some (.changeover cause target (100 * seconds)) := by
  simp [modeOf, hlow, hhigh, hseconds]

/-- A PLANNED or CHANGEOVER in range is a mode whose condition starts with the cause of the request (R52). -/
theorem modeOf_plannedTime {mode : Nat} (hmode : mode = 2 ∨ mode = 3) (hlow : 1 ≤ cause) (hhigh : cause ≤ 239) (hseconds : seconds ≤ 86400) :
    ∃ m : Mode, modeOf mode cause target seconds = some m ∧ m ≠ .scheduled ∧ m ≠ .notScheduled
      ∧ ∀ d, m.condition d = if mode = 2 then .planned cause d else .changeover cause d := by
  rcases hmode with rfl | rfl
  · exact ⟨_, modeOf_planned hlow hhigh hseconds, nofun, nofun, fun _ => rfl⟩
  · exact ⟨_, modeOf_changeover hlow hhigh hseconds, nofun, nofun, fun _ => rfl⟩

end

/-! ## A declaration by the mode held -/

section
variable {s : State} {l : Fin 8} {ln : Line} {lv : Live} {m : Mode}

theorem State.onLine.live?_eq (h : s.onLine l ln lv) : s.live? l = some lv := by
  obtain ⟨hline, hlive⟩ := h
  rw [State.live?, hline, Option.bind_some, hlive]

/-- R62: SCHEDULED under SCHEDULED, or NOT_SCHEDULED under NOT_SCHEDULED. -/
theorem State.declare_held (hline : s.line? l = some ln)
    (hheld : (ln.mode = .scheduled ∧ m = .scheduled) ∨ (ln.mode = .notScheduled ∧ m = .notScheduled)) : s.declare l m = s := by
  rcases hheld with ⟨hmode, rfl⟩ | ⟨hmode, rfl⟩ <;> simp only [State.declare, hline, hmode]

/-- R55, R56 and R58: outside SCHEDULED, what the line holds ends at the declaration before the declared mode is entered; a PLANNED or CHANGEOVER
that is held is no exception. -/
theorem State.declare_redeclare (hline : s.line? l = some ln) (hmode : ln.mode ≠ .scheduled) (hm : m ≠ .scheduled)
    (hchange : ¬(ln.mode = .notScheduled ∧ m = .notScheduled)) : s.declare l m = (s.endDeclared l).enterDeclared l m := by
  unfold State.declare
  rw [hline]
  dsimp only
  split
  case h_1 hheld => exact absurd hheld hmode
  case h_2 hheld => exact absurd ⟨hheld, rfl⟩ hchange
  case h_3 hheld _ => exact absurd hheld hmode
  case h_4 => exact absurd rfl hm
  case h_5 => rfl

theorem State.live?_enterDeclared (s : State) (l : Fin 8) (m : Mode) :
    (s.enterDeclared l m).live? l
      = (s.live? l).map fun lv => { lv.become (m.condition s.runClock) s.runClock with allowanceExpiry := m.allowanceExpiry s.runClock } := by
  unfold State.enterDeclared State.updLine State.setLine State.live? State.line?
  simp only [Fin.getElem_fin, Vector.getElem_set_self]
  cases s.lines[l.val] <;> rfl

/-- A redeclaration leaves the condition of the mode declared, with its segment from the present tick. -/
theorem State.live?_redeclare (h : s.onLine l ln lv) :
    ∃ lv', ((s.endDeclared l).enterDeclared l m).live? l = some lv' ∧ lv'.condition = m.condition s.runClock := by
  rw [State.live?_enterDeclared, State.endDeclared, State.live?_updLive, h.live?_eq, State.updLive_runClock]
  exact ⟨_, rfl, rfl⟩

end

/-! ## The block's answers, in the order of R53 -/

section
variable {p : List Byte} {s : State} {l : Fin 8} {ln : Line} {m : Mode}

theorem exec_of_declareLineMode {t : State} {reply : Reply} (hready : s.ready) (hlen : p.length = 9)
    (hblock : declareLineMode p s = (t, reply)) : exec (.declareLineMode p) s = .next (t.respond 0x10#8 reply) :=
  exec_of_requestBlock (rfl : requestForm (.declareLineMode p) = some (0x10#8, [9], p)) hready (List.mem_singleton.mpr hlen) hblock

theorem declareLineMode_configuring (hc : s.partState = .configuring) : declareLineMode p s = (s, .refuse .wrongState) := by
  rw [declareLineMode, if_pos hc]

theorem ne_configuring_of_monitoring (hm : s.partState = .monitoring) : s.partState ≠ .configuring := by
  rw [hm]
  decide

theorem declareLineMode_badLine (hm : s.partState = .monitoring) (hl : 7 < u8 p 0) : declareLineMode p s = (s, .badValue) := by
  rw [declareLineMode, if_neg (ne_configuring_of_monitoring hm), lineNo_none hl]

theorem declareLineMode_notFound (hm : s.partState = .monitoring) (hl : u8 p 0 = l.val) (hnone : s.line? l = none) :
    declareLineMode p s = (s, .refuse .notFound) := by
  simp only [declareLineMode, if_neg (ne_configuring_of_monitoring hm), lineNo_val hl, hnone]

theorem declareLineMode_badMode (hm : s.partState = .monitoring) (hl : u8 p 0 = l.val) (hdef : (s.line? l).isSome)
    (hmode : modeOf (u8 p 1) (u8 p 2) (u16 p 3) (u32 p 5) = none) : declareLineMode p s = (s, .badValue) := by
  obtain ⟨ln, hln⟩ := Option.isSome_iff_exists.mp hdef
  simp only [declareLineMode, if_neg (ne_configuring_of_monitoring hm), lineNo_val hl, hln, hmode]

theorem declareLineMode_ok (hm : s.partState = .monitoring) (hl : u8 p 0 = l.val) (hln : s.line? l = some ln)
    (hmode : modeOf (u8 p 1) (u8 p 2) (u16 p 3) (u32 p 5) = some m) : declareLineMode p s = (s.declare l m, .ok) := by
  simp only [declareLineMode, if_neg (ne_configuring_of_monitoring hm), lineNo_val hl, hln, hmode]

/-- The fields of a SCHEDULED or NOT_SCHEDULED are not read further: the mode held has no effect (R62). -/
theorem declareLineMode_held (hm : s.partState = .monitoring) (hl : u8 p 0 = l.val) (hln : s.line? l = some ln)
    (hheld : (ln.mode = .scheduled ∧ u8 p 1 = 0) ∨ (ln.mode = .notScheduled ∧ u8 p 1 = 1)) : declareLineMode p s = (s, .ok) := by
  rcases hheld with ⟨hmode, hfield⟩ | ⟨hmode, hfield⟩
  · rw [declareLineMode_ok hm hl hln (hfield ▸ modeOf_scheduled), State.declare_held hln (.inl ⟨hmode, rfl⟩)]
  · rw [declareLineMode_ok hm hl hln (hfield ▸ modeOf_notScheduled), State.declare_held hln (.inr ⟨hmode, rfl⟩)]

end

/-- Settles O35: each check of R53 by the block's answer at it; then the mode held has no effect, and planned time under planned time is a
redeclaration, even of the same mode. -/
theorem declarationOfTheHeldModeHasNoEffect : Obligations.DeclarationOfTheHeldModeHasNoEffect := by
  intro s p hready hlen
  refine ⟨fun hc => ?_, fun hm hl => ?_, fun hm l hl => ⟨fun hnone => ?_, fun hdef hbad => ?_, fun ln hln hheld => ?_, ?_⟩⟩
  · exact exec_of_declareLineMode hready hlen (declareLineMode_configuring hc)
  · exact exec_of_declareLineMode hready hlen (declareLineMode_badLine hm hl)
  · exact exec_of_declareLineMode hready hlen (declareLineMode_notFound hm hl hnone)
  · have hmode : modeOf (u8 p 1) (u8 p 2) (u16 p 3) (u32 p 5) = none :=
      hbad.elim modeOf_badMode fun ⟨hfield, hrange⟩ => modeOf_outOfRange hfield hrange
    exact exec_of_declareLineMode hready hlen (declareLineMode_badMode hm hl hdef hmode)
  · exact exec_of_declareLineMode hready hlen (declareLineMode_held hm hl hln hheld)
  · intro ln lv hon hplanned hfield hlow hhigh hseconds
    obtain ⟨m, hmode, hscheduled, hnotScheduled, hcondition⟩ := modeOf_plannedTime (target := u16 p 3) hfield hlow hhigh hseconds
    have ⟨hln, _⟩ := hon
    have hheld : ln.mode ≠ .scheduled := by rcases hplanned with ⟨c, a, h⟩ | ⟨c, x, a, h⟩ <;> rw [h] <;> nofun
    obtain ⟨lv', hlive, hentered⟩ := State.live?_redeclare (m := m) hon
    have hdeclare := State.declare_redeclare hln hheld hscheduled fun h => hnotScheduled h.2
    rw [← hdeclare] at hlive
    exact ⟨_, lv', exec_of_declareLineMode hready hlen (declareLineMode_ok hm hl hln hmode), hlive, hentered.trans (hcondition _)⟩

end Sys2Proof.Machine
end

section
/-! The Journal's two settings and ATTN#: when ATTN# is asserted (R180), the answers of SET_NOTICE_MASK and SET_WATERMARK (R173), what the
Journal does with a notice handed to it (R170), and the two obligations that follow from these. -/

namespace Sys2Proof.Machine

/-! ## ATTN# (R180) -/

/-- The six terms of `Attention.asserted` are the six flags. -/
theorem Attention.asserted_iff (a : Attention) : a.asserted = true ↔ ∃ f : AttentionFlag, a.flags.get f = true ∧ a.enables.get f = true := by
  simp only [Attention.asserted, Bool.or_eq_true, Bool.and_eq_true]
  constructor
  · rintro (((((h | h) | h) | h) | h) | h)
    · exact ⟨.link, h⟩
    · exact ⟨.stop, h⟩
    · exact ⟨.period, h⟩
    · exact ⟨.high, h⟩
    · exact ⟨.clock, h⟩
    · exact ⟨.notice, h⟩
  · rintro ⟨f, h⟩
    cases f with
    | link => exact .inl (.inl (.inl (.inl (.inl h))))
    | stop => exact .inl (.inl (.inl (.inl (.inr h))))
    | period => exact .inl (.inl (.inl (.inr h)))
    | high => exact .inl (.inl (.inr h))
    | clock => exact .inl (.inr h)
    | notice => exact .inr h

/-- After reset every enable is set, but no flag is latched (R189). -/
theorem Attention.reset_asserted : Attention.reset.asserted = false := rfl

theorem State.resetSound.attention_eq {s : State} (hs : s.resetSound) (hphase : s.resetPhase ≠ .running) : s.attention = Attention.reset := by
  obtain ⟨hreset, _⟩ := hs hphase
  exact congrArg State.attention hreset

/-- Settles O19: the terms of ATTN# are the flags one by one; until the part runs, its Attention Unit is at its values after reset. -/
theorem attnFollowsLatchedAndEnabled : Obligations.AttnFollowsLatchedAndEnabled := by
  intro s
  refine ⟨s.attention.asserted_iff, fun hs hphase => ?_⟩
  rw [hs.attention_eq hphase, Attention.reset_asserted]

/-! ## SET_NOTICE_MASK and SET_WATERMARK (R173) -/

section
variable {p : List Byte} {s : State}

/-- Bit 15 of a two-byte set, the GAP kind, is its top bit. -/
theorem u16_topBit (p : List Byte) (i : Nat) : (BitVec.ofNat 16 (u16 p i)).getLsbD 15 = decide (32768 ≤ u16 p i) := by
  calc (BitVec.ofNat 16 (u16 p i)).getLsbD 15
      = (BitVec.ofNat 16 (u16 p i)).msb := (BitVec.msb_eq_getLsbD_last _).symm
    _ = decide (32768 ≤ (BitVec.ofNat 16 (u16 p i)).toNat) := BitVec.msb_eq_decide _
    _ = decide (32768 ≤ u16 p i) := by rw [BitVec.toNat_ofNat, Nat.mod_eq_of_lt (u16_lt p i)]

theorem setNoticeMask_badValue (hgap : (BitVec.ofNat 16 (u16 p 0)).getLsbD 15 = true) : setNoticeMask p s = (s, .badValue) := by
  rw [u16_topBit, decide_eq_true_eq] at hgap
  rw [setNoticeMask, if_pos hgap]

theorem setNoticeMask_ok (hgap : (BitVec.ofNat 16 (u16 p 0)).getLsbD 15 = false) :
    setNoticeMask p s = ({ s with journal := { s.journal with mask := BitVec.ofNat 16 (u16 p 0) } }, .ok) := by
  rw [u16_topBit, decide_eq_false_iff_not] at hgap
  rw [setNoticeMask, if_neg hgap]

theorem setWatermark_badValue (hbad : u16 p 0 < 1 ∨ 512 < u16 p 0) : setWatermark p s = (s, .badValue) := by
  rw [setWatermark, if_pos hbad]

theorem setWatermark_ok (hlow : 1 ≤ u16 p 0) (hhigh : u16 p 0 ≤ 512) :
    setWatermark p s = ({ s with journal := { s.journal with watermark := u16 p 0 } }, .ok) := by
  rw [setWatermark, if_neg (by omega)]

theorem requestForm_setNoticeMask (p : List Byte) : requestForm (.setNoticeMask p) = some (0x39#8, [2], p) := rfl

theorem requestForm_setWatermark (p : List Byte) : requestForm (.setWatermark p) = some (0x3A#8, [2], p) := rfl

theorem exec_of_setNoticeMask {t : State} {reply : Reply} (hready : s.ready) (hlen : p.length = 2)
    (hblock : setNoticeMask p s = (t, reply)) : exec (.setNoticeMask p) s = .next (t.respond 0x39#8 reply) :=
  exec_of_requestBlock (requestForm_setNoticeMask p) hready (List.mem_singleton.mpr hlen) hblock

theorem exec_of_setWatermark {t : State} {reply : Reply} (hready : s.ready) (hlen : p.length = 2)
    (hblock : setWatermark p s = (t, reply)) : exec (.setWatermark p) s = .next (t.respond 0x3A#8 reply) :=
  exec_of_requestBlock (requestForm_setWatermark p) hready (List.mem_singleton.mpr hlen) hblock

end

/-! ## A notice handed to the Journal (R170) -/

section
variable {s : State} {line : Option (Fin 8)} {body : NoticeBody}

theorem State.notify_masked (hmask : s.journal.mask.getLsbD body.kind = true) : s.notify line body = s := by
  rw [State.notify, if_pos hmask]

/-- An unmasked kind, with room in the queue and no loss outstanding, is queued. -/
theorem State.notify_queued (hmask : s.journal.mask.getLsbD body.kind = false) (hroom : s.journal.queue.length < 512)
    (hgap : s.journal.gapCount = 0) : s.notify line body = s.enqueue line body := by
  rw [State.notify, if_neg (Bool.eq_false_iff.mp hmask), if_pos ⟨hroom, hgap⟩]

theorem State.enqueue_queue_length (s : State) (line : Option (Fin 8)) (body : NoticeBody) :
    (s.enqueue line body).journal.queue.length = s.journal.queue.length + 1 :=
  List.length_append

end

/-- Settles O16: each request by its block's answer at the bounds of its field; a masked kind changes nothing, an unmasked one lengthens the
queue by one notice. -/
theorem noticeMaskAndWatermarkAreSet : Obligations.NoticeMaskAndWatermarkAreSet := by
  intro s p hready
  refine ⟨fun hlen => ⟨?_, ?_⟩, fun hlen hgap => ?_, fun hlen hgap => ?_, fun hlen hbad => ?_, fun hlen hlow hhigh => ?_,
    fun line body => ⟨State.notify_masked, fun hmask hroom hgap => ?_⟩⟩
  · exact exec_badLength (requestForm_setNoticeMask p) hready (mt List.mem_singleton.mp hlen)
  · exact exec_badLength (requestForm_setWatermark p) hready (mt List.mem_singleton.mp hlen)
  · exact exec_of_setNoticeMask hready hlen (setNoticeMask_badValue hgap)
  · exact exec_of_setNoticeMask hready hlen (setNoticeMask_ok hgap)
  · exact exec_of_setWatermark hready hlen (setWatermark_badValue hbad)
  · exact exec_of_setWatermark hready hlen (setWatermark_ok hlow hhigh)
  · rw [State.notify_queued hmask hroom hgap, State.enqueue_queue_length]

end Sys2Proof.Machine
end

section
/-! What every step keeps: each soundness statement of Safety.lean holds across each change that a block can make (`Settles`), and so across every
step; what holds of the values after reset. -/

namespace Sys2Proof.Machine

/-! ## Entry to MONITORING and SUSPEND as changes of Laws/Touch.lean -/

/-- COMMIT has set the part state and begun the stations anew; lines and links have not entered yet. -/
def State.entering (s : State) : State :=
  { s with partState := .monitoring, stations := s.stations.map (·.restarted s.runClock) }

theorem State.enterMonitoring_touch (s : State) : Touch .all s.entering s.enterMonitoring :=
  .trans (.foldlState (fun _ _ => .enterLine trivial trivial) _ _) (.foldlState (fun _ _ => .enterLink trivial) _ _)

/-- SUSPEND has left every line; links and part state have not followed yet. -/
def State.linesSuspended (s : State) : State := allLines.foldl State.suspendLine s

theorem State.linesSuspended_touch (s : State) : Touch .all s s.linesSuspended :=
  .foldlState (fun _ _ => .suspendLine trivial trivial) _ _

theorem State.suspendAll_eq (s : State) :
    s.suspendAll = { s.linesSuspended with links := s.linesSuspended.links.map Link.suspended, partState := .configuring } := rfl

/-! ## Reset -/

@[simp] theorem State.reset_line? (l : Fin 8) : State.reset.line? l = none := by simp [State.line?, State.reset]

@[simp] theorem State.reset_live? (l : Fin 8) : State.reset.live? l = none := by simp [State.live?]

@[simp] theorem State.reset_link (k : Fin 4) : State.reset.link k = Link.reset := by simp [State.link, State.reset]

@[simp] theorem State.reset_trigger (k : Fin 8) : State.reset.trigger k = Trigger.reset := by simp [State.trigger, State.reset]

theorem State.reset_store (l : Fin 8) : State.reset.store[l] = [] := by simp [State.reset]

theorem State.reset_resetSound : State.reset.resetSound := fun _ => ⟨rfl, fun h => nomatch h⟩

theorem State.reset_accountSound : State.reset.accountSound := by
  refine ⟨fun l lv h => ?_, fun l r h => ?_, fun r h => nomatch h⟩
  · rw [State.reset_live?] at h; cases h
  · rw [State.reset_store] at h; cases h

theorem State.reset_storeSound : State.reset.storeSound := fun l => by rw [State.reset_store]; exact Nat.zero_le _

theorem State.reset_journalSound : State.reset.journalSound :=
  ⟨⟨Nat.zero_le _, trivial, fun h => absurd h (Nat.lt_irrefl 0), Nat.zero_le _, rfl, by decide, by decide⟩, fun _ => rfl⟩

theorem causeMapSound_nil : causeMapSound [] := ⟨Nat.zero_le _, .nil, fun _ h => (List.not_mem_nil h).elim⟩

theorem State.reset_enrollmentSound : State.reset.enrollmentSound :=
  ⟨.nil, fun _ => Nat.zero_le _, fun _ h => (List.not_mem_nil h).elim, fun h => nomatch h⟩

theorem State.reset_partSound : State.reset.partSound := by
  refine ⟨fun l ln h => ?_, fun _ k => ?_⟩
  · rw [State.reset_line?] at h; cases h
  · rw [State.reset_link]; exact ⟨rfl, rfl⟩

theorem LinkStats.zero_sound : LinkStats.zero.sound := fun _ => rfl

theorem State.reset_linksSound : State.reset.linksSound := fun k => by
  rw [State.reset_link]; exact ⟨Nat.zero_le _, Nat.zero_le _, LinkStats.zero_sound⟩

/-- Settles O3: the table of R189 field by field, and every soundness statement at reset. -/
theorem resetValues : Obligations.ResetValues :=
  ⟨rfl, rfl, rfl, rfl, rfl, State.reset_line?, fun l => by simp [State.reset], rfl,
    fun l => ⟨by simp [State.reset], State.reset_store l⟩, rfl, rfl, rfl, State.reset_trigger, State.reset_link, rfl, rfl,
    State.reset_resetSound, State.reset_accountSound, State.reset_storeSound, State.reset_journalSound, causeMapSound_nil,
    State.reset_enrollmentSound, State.reset_partSound, State.reset_linksSound⟩

/-! ## The Period Store -/

theorem Settles.storeSound {s t : State} (h : Settles s t) (hs : s.storeSound) : t.storeSound := by
  cases h with
  | touch ht => exact ht.storeSound hs
  | bypass _ _ ht => exact ht.storeSound hs
  | clock _ ht => exact ht.storeSound hs
  | commit => exact s.enterMonitoring_touch.storeSound hs
  | suspend =>
    have h := s.linesSuspended_touch.storeSound hs
    rw [State.suspendAll_eq]
    generalize s.linesSuspended = u at h ⊢
    exact h
  | notices => unfold State.queueGap; split <;> exact hs
  | release l n =>
    intro l'
    by_cases e : l = l'
    · subst e
      have hle := (List.eraseP_sublist (p := fun r : ClosedRecord => r.period.number == n) (l := s.store[l])).length_le
      simpa using Nat.le_trans hle (hs l)
    · simpa [Vector.getElem_set, Fin.val_inj, e] using hs l'
  | _ => exact hs

/-- Settles O58: no change of a block lengthens a line's list past three records. -/
theorem periodStoreStaysSound : Obligations.PeriodStoreStaysSound := fun _ _ hs hstep =>
  step_keeps_of_settles (P := State.storeSound) (fun _ _ h => h) (fun _ _ h => h) (fun _ _ ht h => ht.storeSound h)
    (fun _ _ h => h) (fun _ _ h => h) (fun _ _ h => h) (fun _ _ _ => State.reset_storeSound) hs hstep

/-! ## The field links -/

theorem Link.suspended_sound {L : Link} (h : L.sound) : L.suspended.sound := ⟨Nat.zero_le _, Nat.zero_le _, h.2.2⟩

/-- The links stay sound where one of them is replaced by a sound one. -/
theorem State.linksSound_set {s : State} (hs : s.linksSound) {k : Fin 4} {L : Link} (hL : L.sound) :
    ({ s with links := s.links.set k L } : State).linksSound := by
  intro k'
  by_cases e : k = k'
  · subst e; simpa [State.link] using hL
  · have h := hs k'
    simpa [State.link, Vector.getElem_set, Fin.val_inj, e] using h

theorem Settles.linksSound {s t : State} (h : Settles s t) (hs : s.linksSound) : t.linksSound := by
  cases h with
  | touch ht => exact ht.linksSound hs
  | bypass _ _ ht => exact ht.linksSound hs
  | clock _ ht => exact ht.linksSound hs
  | commit => exact s.enterMonitoring_touch.linksSound hs
  | suspend =>
    intro k
    have h := Link.suspended_sound (s.linesSuspended_touch.linksSound hs k)
    rw [State.suspendAll_eq]
    simpa [State.link] using h
  | notices => unfold State.queueGap; split <;> exact hs
  | setLink k L _ hL =>
    obtain ⟨_, _, hdead, hbusy, hstats⟩ := hL
    obtain ⟨h1, h2, h3⟩ := hs k
    exact State.linksSound_set hs ⟨hdead ▸ h1, hbusy ▸ h2, hstats ▸ h3⟩
  | clearStats k => exact State.linksSound_set hs ⟨(hs k).1, (hs k).2.1, LinkStats.zero_sound⟩
  | _ => exact hs

/-- Settles O59: no change of a block takes a link's counts out of range, or its statistics out of balance. -/
theorem linksStaySound : Obligations.LinksStaySound := fun _ _ hs hstep =>
  step_keeps_of_settles (P := State.linksSound) (fun _ _ h => h) (fun _ _ h => h) (fun _ _ ht h => ht.linksSound h)
    (fun _ _ h => h) (fun _ _ h => h) (fun _ _ h => h) (fun _ _ _ => State.reset_linksSound) hs hstep

/-! ## The Journal -/

/-- Fewer of the oldest notices: those left are consecutive still, from a later sequence. -/
theorem consecutiveFrom_drop (n : Nat) {q : BitVec 16} {xs : List Notice} (h : consecutiveFrom q xs) (hn : n ≤ xs.length) :
    consecutiveFrom (q + BitVec.ofNat 16 n) (xs.drop n) := by
  induction n generalizing q xs with
  | zero => simpa using h
  | succ n ih =>
    match xs, h with
    | x :: xs, h =>
      have hstep : q + BitVec.ofNat 16 (n + 1) = q + 1 + BitVec.ofNat 16 n := by
        rw [BitVec.ofNat_add]; show q + (BitVec.ofNat 16 n + 1#16) = q + 1#16 + BitVec.ofNat 16 n; ac_rfl
      rw [hstep]
      exact ih h.2 (Nat.le_of_succ_le_succ hn)

theorem Journal.consecutive_drop {j : Journal} (n : Nat)
    (h : consecutiveFrom (j.nextSequence - BitVec.ofNat 16 j.queue.length) j.queue) :
    consecutiveFrom (j.nextSequence - BitVec.ofNat 16 (j.queue.drop n).length) (j.queue.drop n) := by
  by_cases hn : n ≤ j.queue.length
  · have hlen : j.queue.length = n + (j.queue.drop n).length := by rw [List.length_drop]; omega
    have hfirst : j.nextSequence - BitVec.ofNat 16 (j.queue.drop n).length
        = j.nextSequence - BitVec.ofNat 16 j.queue.length + BitVec.ofNat 16 n := by
      rw [hlen, BitVec.ofNat_add]
      generalize BitVec.ofNat 16 n = a
      generalize BitVec.ofNat 16 (j.queue.drop n).length = b
      bv_omega
    rw [hfirst]
    exact consecutiveFrom_drop n h hn
  · rw [List.drop_eq_nil_of_le (by omega)]; trivial

theorem Attention.removed_mode (a : Attention) (empty : Bool) : (a.removed empty).mode = a.mode := by
  unfold Attention.removed; split <;> rfl

theorem Attention.removed_level {a : Attention} (h : a.mode = .level) (empty : Bool) : (a.removed empty).flags.notice = !empty := by
  unfold Attention.removed; rw [h]

/-- The oldest notices have been taken, and the losses are settled as though the GAP notice had been queued. -/
def State.takenSettled (s : State) (n : Nat) : State :=
  { s.dropNotices n with journal := { (s.dropNotices n).journal with gapCount := 0 } }

theorem State.takenSettled_sound {s : State} (hs : s.journalSound) (n : Nat) : (s.takenSettled n).journalSound := by
  obtain ⟨⟨hlen, hcons, _, _, hmask, hlow, hhigh⟩, _⟩ := hs
  refine ⟨⟨?_, Journal.consecutive_drop n hcons, fun h => absurd h (Nat.lt_irrefl 0), Nat.zero_le _, hmask, hlow, hhigh⟩, fun hm => ?_⟩
  · exact Nat.le_trans (List.drop_sublist n _).length_le hlen
  · exact Attention.removed_level ((Attention.removed_mode _ _).symm.trans hm) _

/-- TAKE_NOTICES of one notice or more leaves a sound Journal: the GAP notice that follows a loss has room (R171). -/
theorem State.takeNotices_sound {s : State} (hs : s.journalSound) {n : Nat} (hn : 1 ≤ n) (hq : s.journal.queue ≠ []) :
    (s.dropNotices n).queueGap.journalSound := by
  unfold State.queueGap
  split
  · rename_i hgap
    have hsame : s.dropNotices n = s.takenSettled n := by
      have : s.journal.gapCount = 0 := hgap
      simp [State.takenSettled, State.dropNotices, this]
    rw [hsame]
    exact State.takenSettled_sound hs n
  · refine State.enqueue_sound (s.takenSettled n) none _ (State.takenSettled_sound hs n) ?_
    have hlen : s.journal.queue.length ≤ 512 := hs.1.1
    have hpos := List.length_pos_iff.mpr hq
    show (s.journal.queue.drop n).length < 512
    rw [List.length_drop]; omega

theorem Attention.clear_level {a : Attention} (h : a.mode = .level) (f : AttentionSet) (empty : Bool) :
    (a.clear f empty).flags.notice = (a.flags.notice && !(f.notice && empty)) := by
  unfold Attention.clear; rw [h]

theorem Attention.clear_mode (a : Attention) (f : AttentionSet) (empty : Bool) : (a.clear f empty).mode = a.mode := by
  unfold Attention.clear; dsimp only; split <;> rfl

/-- NOTICE follows the queue in LEVEL over a CLEAR_ATTENTION: it is cleared only while the queue is empty. -/
theorem State.noticeSound_clear {s : State} (hs : s.noticeSound) (f : AttentionSet) :
    ({ s with attention := s.attention.clear f s.journal.queue.isEmpty } : State).noticeSound := by
  intro hm
  have hlevel : s.attention.mode = .level := (Attention.clear_mode _ _ _).symm.trans hm
  rw [Attention.clear_level hlevel, hs hlevel]
  cases s.journal.queue.isEmpty <;> simp

/-- NOTICE follows the queue in LEVEL over a SET_ATTENTION: a change to LEVEL sets it from the queue. -/
theorem State.noticeSound_set {s : State} (hs : s.noticeSound) (e : AttentionSet) (m : NoticeMode) :
    ({ s with attention := s.attention.set e m s.journal.queue.isEmpty } : State).noticeSound := by
  intro hm
  have hset : m = .level := hm
  subst hset
  cases hold : s.attention.mode with
  | level => simpa [Attention.set, hold] using hs hold
  | first => simp [Attention.set, hold]

theorem Settles.journalSound {s t : State} (h : Settles s t) (hs : s.journalSound) : t.journalSound := by
  cases h with
  | touch ht => exact ht.journalSound hs
  | bypass _ _ ht => exact ht.journalSound hs
  | clock _ ht => exact ht.journalSound hs
  | commit => exact s.enterMonitoring_touch.journalSound hs
  | suspend =>
    have h := s.linesSuspended_touch.journalSound hs
    rw [State.suspendAll_eq]
    generalize s.linesSuspended = u at h ⊢
    exact h
  | notices n hn hq => exact State.takeNotices_sound hs hn hq
  | mask m hm =>
    obtain ⟨⟨h1, h2, h3, h4, _, h6⟩, h7⟩ := hs
    exact ⟨⟨h1, h2, h3, h4, hm, h6⟩, h7⟩
  | watermark n hlow hhigh =>
    obtain ⟨⟨h1, h2, h3, h4, h5, _⟩, h7⟩ := hs
    exact ⟨⟨h1, h2, h3, h4, h5, hlow, hhigh⟩, h7⟩
  | clear f => exact ⟨hs.1, State.noticeSound_clear hs.2 f⟩
  | attention e m => exact ⟨hs.1, State.noticeSound_set hs.2 e m⟩
  | _ => exact hs

/-- Settles O14: a queuing, a removal with its GAP notice, and the Attention Unit's requests each keep the Journal's law and LEVEL's. -/
theorem journalStaysSound : Obligations.JournalStaysSound := fun _ _ hs hstep =>
  step_keeps_of_settles (P := State.journalSound) (fun _ _ h => h) (fun _ _ h => h) (fun _ _ ht h => ht.journalSound h)
    (fun _ _ h => h) (fun _ _ h => h) (fun _ _ h => h) (fun _ _ _ => State.reset_journalSound) hs hstep

/-! ## The Cause Map -/

theorem modifyFirst_of_none {α : Type} {f : α → Bool} {g : α → α} {as : List α} (h : ∀ a ∈ as, ¬f a = true) : modifyFirst f g as = as := by
  induction as with
  | nil => rfl
  | cons a as ih =>
    rw [modifyFirst, if_neg (h a List.mem_cons_self), ih fun x hx => h x (List.mem_cons_of_mem _ hx)]

/-- A sound map stays sound when entries leave it. -/
theorem causeMapSound.sublist {m m' : List CauseEntry} (hm : causeMapSound m) (h : m'.Sublist m) : causeMapSound m' :=
  ⟨Nat.le_trans h.length_le hm.1, hm.2.1.sublist h, fun e he => hm.2.2 e (h.subset he)⟩

theorem causeMapSound.modifyFirst {m : List CauseEntry} (hm : causeMapSound m) {e : CauseEntry} (he : e.inRange) :
    causeMapSound (modifyFirst (·.sameKey e) (fun _ => e) m) := by
  by_cases hheld : m.any (·.sameKey e) = true
  · exact (modifyFirst_putsEntry hm he hheld).1
  · rw [modifyFirst_of_none (by simpa using hheld)]; exact hm

theorem Settles.causeMapSound {s t : State} (h : Settles s t) (hs : causeMapSound s.causeMap) : causeMapSound t.causeMap := by
  cases h with
  | touch ht => rw [ht.frame.causeMap]; exact hs
  | bypass _ _ ht => rw [ht.frame.causeMap]; exact hs
  | clock _ ht => rw [ht.frame.causeMap]; exact hs
  | commit => rw [s.enterMonitoring_touch.frame.causeMap]; exact hs
  | suspend => rw [State.suspendAll_eq, s.linesSuspended_touch.frame.causeMap]; exact hs
  | notices => unfold State.queueGap; split <;> exact hs
  | replace e he => exact causeMapSound.modifyFirst hs he
  | add e he hfree hroom => exact (insertCause_putsEntry hs he (by simpa using hfree) hroom).1
  | unmap e => exact causeMapSound.sublist hs List.eraseP_sublist
  | _ => exact hs

/-- Settles O29: MAP_CAUSE replaces or adds in key order within 512 entries, UNMAP_CAUSE removes, and nothing else touches the map. -/
theorem causeMapStaysSound : Obligations.CauseMapStaysSound := fun _ _ hs hstep =>
  step_keeps_of_settles (P := fun s => causeMapSound s.causeMap) (fun _ _ h => h) (fun _ _ h => h) (fun _ _ ht h => ht.causeMapSound h)
    (fun _ _ h => h) (fun _ _ h => h) (fun _ _ h => h) (fun _ _ _ => causeMapSound_nil) hs hstep

/-! ## The account -/

/-- A change of the nominal rate charges slow ticks at most, and moves no frontier (R88). -/
theorem Live.rateChanged_sound {lv : Live} (h : lv.sound) (d : LineDef) (t : Tick) : (lv.rateChanged d t).sound := by
  unfold Live.rateChanged
  split
  · exact h
  · split
    · exact Live.sound_beside (lv := lv) rfl rfl (lv.clearSlow_beside t) h
    · split <;> exact h

theorem State.line?_setLine_same (s : State) (l : Fin 8) (x : Option Line) : (s.setLine l x).line? l = x := by
  simp [State.line?, State.setLine]

theorem State.line?_setLine_other (s : State) {l l' : Fin 8} (h : l' ≠ l) (x : Option Line) : (s.setLine l x).line? l' = s.line? l' := by
  have : (l.val = l'.val) = False := by simp [Fin.val_inj, Ne.symm h]
  simp [State.line?, State.setLine, this]

theorem State.live?_setLine_same (s : State) (l : Fin 8) (x : Option Line) : (s.setLine l x).live? l = x.bind (·.live) := by
  rw [State.live?, State.line?_setLine_same]

theorem State.live?_setLine_other (s : State) {l l' : Fin 8} (h : l' ≠ l) (x : Option Line) : (s.setLine l x).live? l' = s.live? l' := by
  rw [State.live?, State.live?, State.line?_setLine_other s h]

/-- The account stays sound where a line is replaced whose live state, if any, is sound. -/
theorem State.accountSound_setLine {s : State} (hs : s.accountSound) (l : Fin 8) {x : Option Line}
    (hx : ∀ lv, x.bind (·.live) = some lv → lv.sound) : (s.setLine l x).accountSound := by
  refine ⟨fun l' lv h => ?_, hs.2.1, hs.2.2⟩
  by_cases e : l' = l
  · subst e; exact hx lv (by rwa [State.live?_setLine_same] at h)
  · exact hs.1 l' lv (by rwa [State.live?_setLine_other s e] at h)

theorem State.accountSound_release {s : State} (hs : s.accountSound) (l : Fin 8) {xs : List ClosedRecord} (hx : xs ⊆ s.store[l]) :
    ({ s with store := s.store.set l xs } : State).accountSound := by
  refine ⟨hs.1, fun l' r hr => ?_, hs.2.2⟩
  by_cases e : l = l'
  · subst e; exact hs.2.1 l r (hx (by simpa using hr))
  · exact hs.2.1 l' r (by simpa [Vector.getElem_set, Fin.val_inj, e] using hr)

theorem State.snapshotOf_sound {s : State} {lv : Live} (h : lv.sound) (l : Fin 8) : (s.snapshotOf l lv).sound :=
  Live.freeze_sound h _ _ _ _

theorem Settles.accountSound {s t : State} (h : Settles s t) (hs : s.accountSound) : t.accountSound := by
  cases h with
  | touch ht => exact ht.accountSound hs
  | bypass _ _ ht => exact ht.accountSound hs
  | clock _ ht => exact ht.accountSound hs
  | commit => exact s.enterMonitoring_touch.accountSound hs
  | suspend =>
    have h := s.linesSuspended_touch.accountSound hs
    rw [State.suspendAll_eq]
    generalize s.linesSuspended = u at h ⊢
    exact h
  | notices => unfold State.queueGap; split <;> exact hs
  | define l d => exact State.accountSound_setLine hs l fun lv h => nomatch h
  | undefine l => exact State.accountSound_setLine hs l fun lv h => nomatch h
  | rate l ln d hln =>
    refine State.accountSound_setLine hs l fun lv h => ?_
    obtain ⟨lv0, hlive, rfl⟩ := Option.map_eq_some_iff.mp (show ln.live.map _ = some lv from h)
    exact Live.rateChanged_sound (hs.1 l lv0 (by simp [State.live?, hln, hlive])) d s.runClock
  | release l n => exact State.accountSound_release hs l List.eraseP_subset
  | snapshot l lv hlv =>
    exact ⟨hs.1, hs.2.1, fun r h => by cases h; exact State.snapshotOf_sound (hs.1 l lv hlv) l⟩
  | _ => exact hs

/-- Settles O57: each block's charges keep a sound account sound, and what settling freezes into a record or a snapshot is sound. -/
theorem accountStaysSound : Obligations.AccountStaysSound := fun _ _ hs hstep =>
  step_keeps_of_settles (P := State.accountSound) (fun _ _ h => h) (fun _ _ h => h) (fun _ _ ht h => ht.accountSound h)
    (fun _ _ h => h) (fun _ _ h => h) (fun _ _ h => h) (fun _ _ _ => State.reset_accountSound) hs hstep

end Sys2Proof.Machine
end

section
/-! The enrollment law and what the part state decides: what each law reads of the state, the changes that keep it, and the obligation that
follows. -/

namespace Sys2Proof.Machine

/-! ## What the enrollment law reads of a record -/

/-- A record as it is created, with the configured fields given; the bypass flag is not one that the enrollment law reads. -/
def Station.ofConfig (c : Nat × Fin 4 × Nat × Fin 8 × Nat × Bool × Bool × Nat × Bool) : Station :=
  { number := c.1, link := c.2.1, address := c.2.2.1, line := c.2.2.2.1, position := c.2.2.2.2.1, constraint := c.2.2.2.2.2.1
    finish := c.2.2.2.2.2.2.1, maxRate := c.2.2.2.2.2.2.2.1, bypassed := false
    linkState := .unknown, missRun := 0, goodRun := 0, reported := none, faultCode := 0, reasonCode := 0
    changeInstant := none, lastApplied := none, baselines := none, gap := none, accrualStart := none }

/-- What the enrollment law reads of a record. -/
def Station.identity (r : Station) : Station := Station.ofConfig r.config

section
variable {rs qs : List Station}

theorem pairwise_apart_identity : (rs.map Station.identity).Pairwise Station.apart ↔ rs.Pairwise Station.apart := List.pairwise_map

theorem enrolledOn_identity (k : Fin 4) : enrolledOn (rs.map Station.identity) k = enrolledOn rs k := by
  rw [enrolledOn, enrolledOn, List.filter_map, List.length_map]; rfl

theorem rolesFilled_identity (l : Fin 8) : rolesFilled (rs.map Station.identity) l ↔ rolesFilled rs l := by
  unfold rolesFilled
  rw [List.filter_map, List.countP_map, List.countP_map]; rfl

theorem identity_map_of_config (h : qs.map Station.config = rs.map Station.config) : qs.map Station.identity = rs.map Station.identity := by
  have := congrArg (List.map Station.ofConfig) h
  rwa [List.map_map, List.map_map] at this

end

/-- A state whose stations have the same identities, with every line defined that a station names, keeps the enrollment law, where its part state
asks for no roles that the first does not fill. -/
theorem State.enrollmentSound_of_identity {s t : State} (hst : t.stations.map Station.identity = s.stations.map Station.identity)
    (hdef : ∀ l, (s.line? l).isSome → (t.line? l).isSome)
    (hroles : t.partState = .monitoring → ∀ l, (t.line? l).isSome → rolesFilled s.stations l) (hs : s.enrollmentSound) : t.enrollmentSound := by
  obtain ⟨hapart, hlinks, hlines, _⟩ := hs
  refine ⟨?_, fun k => ?_, fun r hr => ?_, fun hm l hl => ?_⟩
  · rw [← pairwise_apart_identity, hst, pairwise_apart_identity]; exact hapart
  · rw [← enrolledOn_identity, hst, enrolledOn_identity]; exact hlinks k
  · have hmem : r.identity ∈ s.stations.map Station.identity := hst ▸ List.mem_map_of_mem hr
    obtain ⟨q, hq, hqr⟩ := List.mem_map.mp hmem
    obtain ⟨hrange, hline⟩ := hlines q hq
    have hrange' : q.identity.inRange := hrange
    have hline' : (s.line? q.identity.line).isSome := hline
    rw [hqr] at hrange' hline'
    exact ⟨hrange', hdef _ hline'⟩
  · rw [← rolesFilled_identity, hst, rolesFilled_identity]; exact hroles hm l hl

theorem Touch.enrollmentSound {sc : Scope} {s t : State} (h : Touch sc s t) (hs : s.enrollmentSound) : t.enrollmentSound :=
  State.enrollmentSound_of_identity (identity_map_of_config h.config) (fun l hl => (h.defined l).trans hl)
    (fun hm l hl => hs.2.2.2 (h.frame.partState ▸ hm) l ((h.defined l).symm.trans hl)) hs

/-! ## ENROLL_STATION and REMOVE_STATION -/

theorem insertStation_perm (r : Station) (rs : List Station) : (insertStation r rs).Perm (r :: rs) := by
  induction rs with
  | nil => exact .refl _
  | cons q rs ih =>
    unfold insertStation
    split
    · exact .refl _
    · exact (List.Perm.cons q ih).trans (.swap r q rs)

theorem collision_none {rs : List Station} {r : Station} (h : collision rs r = none) : ∀ q ∈ rs, r.apart q := by
  intro q hq
  unfold collision at h
  split at h
  · cases h
  · rename_i hnumber
    split at h
    · cases h
    · rename_i haddress
      split at h
      · cases h
      · rename_i hposition
        simp only [List.any_eq_true, not_exists, not_and, Bool.and_eq_true, beq_iff_eq] at hnumber haddress hposition
        exact ⟨fun e => hnumber q hq e.symm, fun e => haddress q hq e.1.symm e.2.symm, fun e => hposition q hq e.1.symm e.2.symm⟩

theorem enrolledOn_insert (r : Station) (rs : List Station) (k : Fin 4) :
    enrolledOn (insertStation r rs) k = enrolledOn rs k + if r.link = k then 1 else 0 := by
  unfold enrolledOn
  rw [((insertStation_perm r rs).filter _).length_eq, List.filter_cons]
  by_cases e : r.link = k <;> simp [e]

theorem State.enrollmentSound_enroll {s : State} (hs : s.enrollmentSound) (hc : s.partState = .configuring) {r : Station}
    (hline : (s.line? r.line).isSome) (hrange : r.inRange) (hfree : collision s.stations r = none) (hroom : enrolledOn s.stations r.link < 24) :
    ({ s with stations := insertStation r s.stations } : State).enrollmentSound := by
  obtain ⟨hapart, hlinks, hlines, _⟩ := hs
  refine ⟨?_, fun k => ?_, fun q hq => ?_, fun hm => ?_⟩
  · refine ((insertStation_perm r s.stations).pairwise_iff fun h => Station.apart_symm h).mpr ?_
    exact List.pairwise_cons.mpr ⟨collision_none hfree, hapart⟩
  · show enrolledOn (insertStation r s.stations) k ≤ 24
    rw [enrolledOn_insert]
    have := hlinks k
    split
    · rename_i e; subst e; omega
    · omega
  · rcases List.mem_cons.mp ((insertStation_perm r s.stations).subset hq) with rfl | hq
    · exact ⟨hrange, hline⟩
    · exact hlines q hq
  · rw [show s.partState = .monitoring from hm] at hc; cases hc

theorem State.enrollmentSound_remove {s : State} (hs : s.enrollmentSound) (hc : s.partState = .configuring) {rs : List Station}
    (h : rs.Sublist s.stations) : ({ s with stations := rs } : State).enrollmentSound := by
  obtain ⟨hapart, hlinks, hlines, _⟩ := hs
  refine ⟨hapart.sublist h, fun k => ?_, fun q hq => hlines q (h.subset hq), fun hm => ?_⟩
  · exact Nat.le_trans (h.filter _).length_le (hlinks k)
  · rw [show s.partState = .monitoring from hm] at hc; cases hc

/-! ## COMMIT -/

theorem lineFault_none {rs : List Station} {l : Fin 8} (h : lineFault rs l = none) : rolesFilled rs l := by
  unfold lineFault at h
  dsimp only at h
  split at h
  · cases h
  · split at h
    · cases h
    · rename_i hconstraint
      split at h
      · cases h
      · rename_i hfinish
        exact ⟨Classical.not_not.mp hconstraint, Classical.not_not.mp hfinish⟩

theorem mem_allLines (l : Fin 8) : l ∈ allLines := by revert l; decide

theorem State.mem_definedLines {s : State} {l : Fin 8} : l ∈ s.definedLines ↔ (s.line? l).isSome := by
  simp [State.definedLines, mem_allLines]

theorem State.configFault_none {s : State} (h : s.configFault = none) {l : Fin 8} (hl : (s.line? l).isSome) : rolesFilled s.stations l := by
  unfold State.configFault at h
  split at h
  · cases h
  · have := List.findSome?_eq_none_iff.mp h l (State.mem_definedLines.mpr hl)
    exact lineFault_none (Option.map_eq_none_iff.mp this)

theorem State.entering_enrollmentSound {s : State} (hs : s.enrollmentSound) (h : s.configFault = none) : s.entering.enrollmentSound := by
  refine State.enrollmentSound_of_identity (s := s) ?_ (fun _ hl => hl) (fun _ l hl => State.configFault_none h hl) hs
  show (s.stations.map (·.restarted s.runClock)).map Station.identity = _
  rw [List.map_map]; rfl

/-! ## Every step keeps the enrollment law -/

theorem Settles.enrollmentSound {s t : State} (h : Settles s t) (hs : s.enrollmentSound) : t.enrollmentSound := by
  cases h with
  | touch ht => exact ht.enrollmentSound hs
  | clock _ ht => exact ht.enrollmentSound hs
  | bypass n b ht =>
    refine ht.enrollmentSound (State.enrollmentSound_of_identity (s := s) ?_ (fun _ hl => hl) hs.2.2.2 hs)
    exact map_modifyFirst (fun r => r.number == n) (fun q => { q with bypassed := b }) Station.identity (fun _ => rfl) s.stations
  | commit hc hf => exact s.enterMonitoring_touch.enrollmentSound (State.entering_enrollmentSound hs hf)
  | suspend =>
    have h := s.linesSuspended_touch.enrollmentSound hs
    rw [State.suspendAll_eq]
    generalize s.linesSuspended = u at h ⊢
    exact ⟨h.1, h.2.1, h.2.2.1, fun hm => nomatch hm⟩
  | notices => unfold State.queueGap; split <;> exact hs
  | enroll r hc hline hrange hfree hroom => exact State.enrollmentSound_enroll hs hc hline hrange hfree hroom
  | remove n hc => exact State.enrollmentSound_remove hs hc List.eraseP_sublist
  | define l d hc =>
    refine State.enrollmentSound_of_identity (s := s) rfl (fun l' hl => ?_) (fun hm => ?_) hs
    · by_cases e : l' = l
      · subst e; rw [State.line?_setLine_same]; rfl
      · rwa [State.line?_setLine_other s e]
    · rw [show s.partState = .monitoring from hm] at hc; cases hc
  | undefine l hc hoff =>
    refine ⟨hs.1, hs.2.1, fun r hr => ⟨(hs.2.2.1 r hr).1, ?_⟩, fun hm => ?_⟩
    · have e : r.line ≠ l := by simpa using List.any_eq_false.mp hoff r hr
      rw [State.line?_setLine_other s e]; exact (hs.2.2.1 r hr).2
    · rw [show s.partState = .monitoring from hm] at hc; cases hc
  | rate l ln d hln =>
    have hdef : ∀ l', ((s.setLine l (some { ln with defn := d, live := ln.live.map (·.rateChanged d s.runClock) })).line? l').isSome
        = (s.line? l').isSome := fun l' => by
      by_cases e : l' = l
      · subst e; rw [State.line?_setLine_same, hln]; rfl
      · rw [State.line?_setLine_other s e]
    exact State.enrollmentSound_of_identity (s := s) rfl (fun l' hl => (hdef l').trans hl)
      (fun hm l' hl => hs.2.2.2 hm l' ((hdef l').symm.trans hl)) hs
  | _ => exact hs

theorem step_keeps_enrollmentSound {s t : State} (hs : s.enrollmentSound) (hstep : step s = .next t) : t.enrollmentSound :=
  step_keeps_of_settles (P := State.enrollmentSound) (fun _ _ h => h) (fun _ _ h => h) (fun _ _ ht h => ht.enrollmentSound h)
    (fun _ _ h => h) (fun _ _ h => h) (fun _ _ h => h) (fun _ _ _ => State.reset_enrollmentSound) hs hstep

/-! ## Which lines are live -/

/-- A defined line is live exactly in MONITORING (R89). -/
def State.liveSound (s : State) : Prop := ∀ l, (s.line? l).isSome → ((s.live? l).isSome ↔ s.partState = .monitoring)

/-- In CONFIGURING every link is IDLE, with no round (R145). -/
def State.linksIdle (s : State) : Prop := s.partState = .configuring → ∀ k, (s.link k).state = .idle ∧ (s.link k).round = none

theorem State.live?_of_line? {s : State} {l : Fin 8} {ln : Line} (h : s.line? l = some ln) : s.live? l = ln.live := by
  rw [State.live?, h]; rfl

theorem State.partSound_iff {s : State} : s.partSound ↔ s.liveSound ∧ s.linksIdle := by
  refine and_congr_left fun _ => ⟨fun h l hl => ?_, fun h l ln hl => ?_⟩
  · obtain ⟨ln, hln⟩ := Option.isSome_iff_exists.mp hl
    rw [State.live?_of_line? hln]; exact h l ln hln
  · rw [← State.live?_of_line? hl]; exact h l (by rw [hl]; rfl)

/-- Where no line enters or leaves MONITORING, the live lines stay live, and the others stay as they are. -/
theorem Touch.live_isSome {sc : Scope} {s t : State} (h : Touch sc s t) (hp : ¬sc.part) (l : Fin 8) :
    (t.live? l).isSome = (s.live? l).isSome := by
  induction h with
  | trans _ _ ih1 ih2 => exact ih2.trans ih1
  | note s o n => rw [State.live?_notify]
  | line s l' ln ln' _ hx hf =>
    by_cases e : l = l'
    · subst e
      rw [State.live?_setLine_same, State.live?_of_line? hx]
      exact hf.2.1.resolve_left hp
    · rw [State.live?_setLine_other s e]
  | _ => rfl

theorem Touch.liveSound {sc : Scope} {s t : State} (h : Touch sc s t) (hp : ¬sc.part) (hs : s.liveSound) : t.liveSound := by
  intro l hl
  rw [h.live_isSome hp, h.frame.partState]
  exact hs l ((h.defined l).symm.trans hl)

/-- A property of each item that its own turn brings about, and that no other turn breaks, holds of every item after all turns. -/
theorem foldl_establishes {α β : Type} {f : β → α → β} {Q : β → α → Prop} (hown : ∀ b a, Q (f b a) a)
    (hkeep : ∀ b a a', Q b a' → Q (f b a) a') (as : List α) (b : β) : ∀ a ∈ as, Q (as.foldl f b) a := by
  have later : ∀ (as : List α) b a', Q b a' → Q (as.foldl f b) a' := by
    intro as
    induction as with
    | nil => exact fun _ _ h => h
    | cons a as ih => exact fun b a' h => ih _ _ (hkeep _ _ _ h)
  induction as generalizing b with
  | nil => exact fun _ h => (List.not_mem_nil h).elim
  | cons a as ih =>
    intro a' h
    rcases List.mem_cons.mp h with rfl | h
    · exact later as _ _ (hown b a')
    · exact ih _ _ h

/-- The lines that COMMIT lets enter, one in its turn: a defined line is live (R186). -/
theorem State.enterLine_line?_same (s : State) (l : Fin 8) : ((s.enterLine l).line? l).isSome → ((s.enterLine l).live? l).isSome := by
  unfold State.enterLine
  split
  · rename_i h; intro hl; rw [h] at hl; cases hl
  · intro _; rw [State.live?_setLine_same]; rfl

theorem State.enterLine_line?_other (s : State) {l l' : Fin 8} (h : l' ≠ l) : (s.enterLine l).line? l' = s.line? l' := by
  unfold State.enterLine
  split
  · rfl
  · dsimp only
    rw [State.line?_setLine_other _ h, State.line?, State.takePeriodNumber_lines]; rfl

theorem State.linesEntered (s : State) (l : Fin 8) :
    ((allLines.foldl State.enterLine s).line? l).isSome → ((allLines.foldl State.enterLine s).live? l).isSome := by
  refine foldl_establishes (Q := fun (s : State) l => (s.line? l).isSome → (s.live? l).isSome)
    (fun s l => s.enterLine_line?_same l) (fun s l l' h => ?_) allLines s l (mem_allLines l)
  by_cases e : l' = l
  · subst e; exact s.enterLine_line?_same l'
  · unfold State.live?; rw [State.enterLine_line?_other s e]; exact h

theorem State.enterLink_lines (s : State) (k : Fin 4) : (s.enterLink k).lines = s.lines := by
  unfold State.enterLink; split <;> rfl

theorem State.enterMonitoring_lines (s : State) : s.enterMonitoring.lines = (allLines.foldl State.enterLine s.entering).lines := by
  suffices h : ∀ (ks : List (Fin 4)) (u : State), (ks.foldl State.enterLink u).lines = u.lines from h _ _
  intro ks
  induction ks with
  | nil => exact fun _ => rfl
  | cons k ks ih => exact fun u => (ih _).trans (u.enterLink_lines k)

theorem State.enterMonitoring_liveSound (s : State) : s.enterMonitoring.liveSound := by
  intro l hl
  have hpart : s.enterMonitoring.partState = .monitoring := s.enterMonitoring_touch.frame.partState
  unfold State.live? State.line? at *
  rw [State.enterMonitoring_lines] at *
  exact iff_of_true (s.entering.linesEntered l hl) hpart

/-- One line that SUSPEND leaves, in its turn (R187). -/
theorem State.suspendLine_live?_same (s : State) (l : Fin 8) : (s.suspendLine l).live? l = none := by
  unfold State.suspendLine
  split
  · rename_i h; exact h
  · show (((s.closeLine l .suspend).abandon l).updLine l fun ln => { ln with live := none }).live? l = none
    unfold State.updLine
    rw [State.live?_setLine_same]
    cases ((s.closeLine l .suspend).abandon l).line? l <;> rfl

theorem State.suspendLine_live?_other (s : State) {l l' : Fin 8} (h : l' ≠ l) : (s.suspendLine l).live? l' = s.live? l' := by
  have ht : Touch { Scope.ofLine l with part := True } s (s.suspendLine l) := .suspendLine rfl trivial
  unfold State.live?
  rw [(ht.otherLine l' h).1]

theorem State.linesSuspended_live? (s : State) (l : Fin 8) : s.linesSuspended.live? l = none := by
  refine foldl_establishes (Q := fun (s : State) l => s.live? l = none) (fun s l => s.suspendLine_live?_same l) (fun s l l' h => ?_)
    allLines s l (mem_allLines l)
  by_cases e : l' = l
  · subst e; exact s.suspendLine_live?_same l'
  · rw [State.suspendLine_live?_other s e]; exact h

theorem State.live?_congr {s t : State} (h : t.lines = s.lines) (l : Fin 8) : t.live? l = s.live? l := by
  unfold State.live? State.line?; rw [h]

theorem State.suspendAll_live? (s : State) (l : Fin 8) : s.suspendAll.live? l = none := by
  rw [State.live?_congr (s := s.linesSuspended) (by rw [State.suspendAll_eq]), State.linesSuspended_live?]

theorem Settles.liveSound {s t : State} (h : Settles s t) (hs : s.liveSound) : t.liveSound := by
  cases h with
  | touch ht => exact ht.liveSound id hs
  | bypass _ _ ht => exact ht.liveSound id hs
  | clock _ ht => exact ht.liveSound id hs
  | commit => exact s.enterMonitoring_liveSound
  | suspend => exact fun l _ => ⟨fun hl => (by rw [State.suspendAll_live?] at hl; cases hl), fun hm => nomatch hm⟩
  | notices => unfold State.queueGap; split <;> exact hs
  | define l d hc =>
    intro l' hl
    by_cases e : l' = l
    · subst e
      rw [State.live?_setLine_same]
      refine iff_of_false (fun h => nomatch h) fun hm => ?_
      rw [show s.partState = .monitoring from hm] at hc; cases hc
    · rw [State.line?_setLine_other s e] at hl
      rw [State.live?_setLine_other s e]; exact hs l' hl
  | undefine l hc _ =>
    intro l' hl
    by_cases e : l' = l
    · subst e; rw [State.line?_setLine_same] at hl; cases hl
    · rw [State.line?_setLine_other s e] at hl
      rw [State.live?_setLine_other s e]; exact hs l' hl
  | rate l ln d hln =>
    intro l' hl
    by_cases e : l' = l
    · subst e
      have h := hs l' (by rw [hln]; rfl)
      rw [State.live?_of_line? hln] at h
      rw [State.live?_setLine_same]
      show (ln.live.map _).isSome ↔ _
      rw [Option.isSome_map]; exact h
    · rw [State.line?_setLine_other s e] at hl
      rw [State.live?_setLine_other s e]; exact hs l' hl
  | _ => exact hs

/-! ## Links in CONFIGURING -/

/-- Every line and trigger may change, and no link. -/
def Scope.offLinks : Scope := { line := fun _ => True, link := fun _ => False, trigger := fun _ => True, part := False }

theorem Touch.links_eq {s t : State} (h : Touch .offLinks s t) : t.links = s.links := by
  ext k hk
  exact h.otherLink ⟨k, hk⟩ id

theorem Touch.linksIdle {s t : State} (h : Touch .offLinks s t) (hs : s.linksIdle) : t.linksIdle := by
  unfold State.linksIdle State.link at *
  rw [h.links_eq, h.frame.partState]; exact hs

section
variable {s : State} (hs : s.linksIdle) (p : List Byte)
include hs

theorem State.linksIdle_updLink (k : Fin 4) {f : Link → Link} (hstate : (f (s.link k)).state = (s.link k).state)
    (hround : (f (s.link k)).round = (s.link k).round) : (s.updLink k f).linksIdle := by
  intro hc k'
  obtain ⟨h1, h2⟩ := hs hc k'
  by_cases e : k = k'
  · subst e; exact ⟨by simpa [State.updLink, State.link] using hstate.trans h1, by simpa [State.updLink, State.link] using hround.trans h2⟩
  · simpa [State.updLink, State.link, Vector.getElem_set, Fin.val_inj, e] using And.intro h1 h2

theorem bypassStation_linksIdle : (bypassStation p s).1.linksIdle := by
  unfold bypassStation; dsimp only
  split
  · exact hs
  · split
    · exact hs
    · split
      · exact hs
      · split
        · exact hs
        · exact Touch.linksIdle (.offerBypass trivial) (show State.linksIdle (s.updStation _ _) from hs)

theorem declareLineMode_linksIdle : (declareLineMode p s).1.linksIdle := by
  unfold declareLineMode
  split
  · exact hs
  · split
    · exact hs
    · split
      · exact hs
      · split
        · exact hs
        · exact Touch.linksIdle (.declare trivial _) hs

theorem closePeriod_linksIdle : (closePeriod p s).1.linksIdle := by
  unfold closePeriod
  split
  · exact hs
  · split
    · exact hs
    · split
      · exact hs
      · split
        · exact hs
        · exact Touch.linksIdle (.closeLine trivial _) hs

theorem loadClock_linksIdle : (loadClock p s).1.linksIdle := by
  unfold loadClock; dsimp only
  split
  · exact hs
  · exact Touch.linksIdle (.movePlant (fun _ => trivial) (fun _ => trivial) _ _) hs

theorem stepClock_linksIdle : (stepClock p s).1.linksIdle := by
  unfold stepClock; dsimp only
  split
  · exact hs
  · split
    · exact hs
    · split
      · exact hs
      · split
        · exact hs
        · exact Touch.linksIdle (.movePlant (fun _ => trivial) (fun _ => trivial) _ _) hs

theorem setRehearse_linksIdle : (setRehearse p s).1.linksIdle := by
  unfold setRehearse
  split
  · exact hs
  · split
    · split
      · exact hs
      · split
        · exact hs
        · exact Touch.linksIdle (.changeRehearsal trivial _) hs
    all_goals exact hs

theorem injectReport_linksIdle : (injectReport p s).1.linksIdle := by
  unfold injectReport
  split
  · exact hs
  · split
    · split
      · exact hs
      · rename_i r hr
        have hh : s.holds .offLinks r := ⟨(State.station?_number hr).symm ▸ hr, trivial⟩
        split
        · dsimp only
          split
          · exact Touch.linksIdle (.miss hh) hs
          · exact Touch.linksIdle (.goodReply hh _) hs
        · exact hs
    all_goals exact hs

theorem lineResetReq_linksIdle : (lineResetReq p s).1.linksIdle := by
  unfold lineResetReq
  split
  · exact hs
  · split
    · exact hs
    · split
      · exact hs
      · exact Touch.linksIdle (.closeReset trivial _) hs

theorem setLink_linksIdle : (setLink p s).1.linksIdle := by
  unfold setLink
  split
  · exact hs
  · split
    · exact hs
    · split
      · exact State.linksIdle_updLink hs _ rfl rfl
      all_goals exact hs

theorem readLinkStats_linksIdle : (readLinkStats p s).1.linksIdle := by
  unfold readLinkStats
  split
  · exact hs
  · rename_i k _
    split
    · exact hs
    · split
      · exact State.linksIdle_updLink hs k rfl rfl
      · exact hs

theorem commitReq_linksIdle : (commitReq p s).1.linksIdle := by
  unfold commitReq
  split
  · exact hs
  · split
    · exact hs
    · intro hc
      rw [s.enterMonitoring_touch.frame.partState] at hc; cases hc

theorem suspendReq_linksIdle : (suspendReq p s).1.linksIdle := by
  unfold suspendReq
  split
  · exact hs
  · intro _ k
    dsimp only
    rw [State.suspendAll_eq]
    simp [State.link, Link.suspended]

theorem takeNotices_linksIdle : (takeNotices p s).1.linksIdle := by
  unfold takeNotices State.queueGap; dsimp only
  split
  · exact hs
  · split
    · exact hs
    · split <;> exact hs

end

/-- The blocks of requests that act on lines and triggers act on no link; of the rest, SET_LINK and READ_LINK_STATS leave a link's state and round,
COMMIT ends CONFIGURING, and SUSPEND leaves every link IDLE. -/
theorem requestBlock_linksIdle {s : State} (hs : s.linksIdle) (i : Instr) (p : List Byte) : (requestBlock i p s).1.linksIdle := by
  cases i
  case bypassStation => exact bypassStation_linksIdle hs p
  case declareLineMode => exact declareLineMode_linksIdle hs p
  case closePeriod => exact closePeriod_linksIdle hs p
  case loadClock => exact loadClock_linksIdle hs p
  case stepClock => exact stepClock_linksIdle hs p
  case setRehearse => exact setRehearse_linksIdle hs p
  case injectReport => exact injectReport_linksIdle hs p
  case lineReset => exact lineResetReq_linksIdle hs p
  case setLink => exact setLink_linksIdle hs p
  case readLinkStats => exact readLinkStats_linksIdle hs p
  case commit => exact commitReq_linksIdle hs p
  case suspend => exact suspendReq_linksIdle hs p
  case takeNotices => exact takeNotices_linksIdle hs p
  all_goals
    simp only [requestBlock, defineLine, undefineLine, enrollStation, removeStation, readStation, mapCause, unmapCause, readMap, readLineStatus,
      setRate, listClosed, readClosed, releaseClosed, readOpen, readClock, armTrigger, disarmTrigger, readTriggers, setNoticeMask, setWatermark,
      readAttention, clearAttention, setAttention, identifyReq, restartReq]
    repeat' split
    all_goals exact hs

/-! ## Events in CONFIGURING -/

section
variable {s : State} {k : Fin 4}

/-- An IDLE link starts no round. -/
theorem State.takeRoundStart_idle (hstate : (s.link k).state = .idle) : s.takeRoundStart k = s := by
  unfold State.takeRoundStart
  split
  · rw [if_neg fun h => h.1 hstate]
  all_goals rfl

/-! A link without a round takes no event of a slot. -/

variable (hround : (s.link k).round = none)
include hround

theorem State.takeIdleCheck_no_round : s.takeIdleCheck k = s := by unfold State.takeIdleCheck; rw [hround]

theorem State.takeBusy_no_round (w : Pair Bool) : s.takeBusy k w = s := by unfold State.takeBusy; rw [hround]

theorem State.takePollSent_no_round : s.takePollSent k = s := by unfold State.takePollSent; rw [hround]

theorem State.takeReplyWait_no_round : s.takeReplyWait k = s := by unfold State.takeReplyWait; rw [hround]

theorem State.takeReply_no_round (w : Pair Byte) : s.takeReply k w = s := by unfold State.takeReply; rw [hround]

theorem State.takeReplyGap_no_round : s.takeReplyGap k = s := by unfold State.takeReplyGap; rw [hround]

theorem State.takeReplyChar_no_round (e : CharEdge) : s.takeReplyChar k e = s := by unfold State.takeReplyChar; rw [hround]

end

/-- The links of CONFIGURING stay IDLE at every event: those of a link do nothing, and the others act on lines and triggers, or on the clocks. -/
theorem event_linksIdle_configuring {i : Instr} {s t : State} (hf : requestForm i = none) (hc : carriesAny i = false)
    (he : exec i s = .next t) (hpart : s.partState = .configuring) (hs : s.linksIdle) : t.linksIdle := by
  have hl : ∀ l, Scope.offLinks.line l := fun _ => trivial
  have hstate := fun k => (hs hpart k).1
  have hround := fun k => (hs hpart k).2
  cases i
  case roundStart k => cases he; rw [State.takeRoundStart_idle (hstate k)]; exact hs
  case idleCheckExpiry k => cases he; rw [State.takeIdleCheck_no_round (hround k)]; exact hs
  case skippedBusy w => cases he; rw [State.takeBusy_no_round (hround w.link)]; exact hs
  case pollSent k => cases he; rw [State.takePollSent_no_round (hround k)]; exact hs
  case replyWaitExpiry k => cases he; rw [State.takeReplyWait_no_round (hround k)]; exact hs
  case replyReceived k w => cases he; rw [State.takeReply_no_round (hround k)]; exact hs
  case replyGapExpiry k => cases he; rw [State.takeReplyGap_no_round (hround k)]; exact hs
  case replyCharacterReceived k e => cases he; rw [State.takeReplyChar_no_round (hround k)]; exact hs
  case triggerExpiry k => cases he; exact Touch.linksIdle (.takeTriggerExpiry hl trivial) hs
  case ageLimit l => cases he; exact Touch.linksIdle (.takeAgeLimit (hl l)) hs
  case promotionExpiry l => cases he; exact Touch.linksIdle (.promote (hl l)) hs
  case confirmationExpiry l => cases he; exact Touch.linksIdle (.confirmRestart (hl l)) hs
  case longStopExpiry l => cases he; exact Touch.linksIdle (.takeLongStop (hl l)) hs
  case durationCapExpiry l => cases he; exact Touch.linksIdle (.takeCap (hl l)) hs
  case allowanceExpiry l => cases he; exact Touch.linksIdle (.takeAllowance (hl l)) hs
  case windowExpiry l => cases he; exact Touch.linksIdle (.completeWindow (hl l)) hs
  case gapExpiry n => cases he; exact Touch.linksIdle (.takeGapExpiry n fun _ _ => trivial) hs
  case runClockTick => cases he; unfold State.tickRunClock; split <;> exact hs
  case plantSecondAdvance => cases he; unfold State.advancePlant; (repeat' split) <;> exact hs
  case plantClockLimit => cases he; unfold State.limitPlant; (repeat' split) <;> exact hs
  case resetRelease => cases he; unfold State.takeRelease; split <;> exact hs
  case startUpEnd a b => cases he; unfold State.takeStartUpEnd; split <;> exact hs
  case hostByteReceived => exact nomatch hc
  case hostCharacterGapExpiry => exact nomatch hc
  case responseSent => exact nomatch hc
  case resetPin => exact nomatch hc
  all_goals exact nomatch hf

/-- What an event does to the part state: nothing. -/
theorem event_partState {i : Instr} {s t : State} (hf : requestForm i = none) (hc : carriesAny i = false) (he : exec i s = .next t) :
    t.partState = s.partState := by
  rcases event_touch hf hc he with ht | rfl | rfl | rfl | rfl | ⟨a, b, rfl⟩
  · exact ht.frame.partState
  · cases he; unfold State.tickRunClock; split <;> rfl
  · cases he; unfold State.advancePlant; (repeat' split) <;> rfl
  · cases he; unfold State.limitPlant; (repeat' split) <;> rfl
  · cases he; unfold State.takeRelease; split <;> rfl
  · cases he; unfold State.takeStartUpEnd; split <;> rfl

theorem event_linksIdle {i : Instr} {s t : State} (hf : requestForm i = none) (hc : carriesAny i = false) (he : exec i s = .next t)
    (hs : s.linksIdle) : t.linksIdle := by
  cases hpart : s.partState with
  | configuring => exact event_linksIdle_configuring hf hc he hpart hs
  | monitoring => intro hct; rw [event_partState hf hc he, hpart] at hct; cases hct

theorem step_keeps_partSound {s t : State} (hs : s.partSound) (hstep : step s = .next t) : t.partSound := by
  have hreset := State.partSound_iff.mp State.reset_partSound
  obtain ⟨hlive, hidle⟩ := State.partSound_iff.mp hs
  refine State.partSound_iff.mpr ⟨?_, ?_⟩
  · exact step_keeps_of_settles (P := State.liveSound) (fun _ _ h => h) (fun _ _ h => h) (fun _ _ ht h => ht.liveSound h)
      (fun _ _ h => h) (fun _ _ h => h) (fun _ _ h => h) (fun _ _ _ => hreset.1) hlive hstep
  · exact step_keeps (P := State.linksIdle) (fun _ _ h => h) (fun _ _ h => h) (fun i _ _ p _ _ _ h => requestBlock_linksIdle h i p)
      (fun _ _ _ hf hc he h => event_linksIdle hf hc he h) (fun _ _ _ => hreset.2) hidle hstep

/-- Settles O34: the two laws apart; each is kept by every change of a block, and the links' part by every event. -/
theorem enrollmentAndPartStateStaySound : Obligations.EnrollmentAndPartStateStaySound := fun _ _ hstep =>
  ⟨fun hs => step_keeps_enrollmentSound hs hstep, fun hs => step_keeps_partSound hs hstep⟩

end Sys2Proof.Machine
end

section
/-! The step, the reset and the ways of a request: what each block and each event leaves of the Host Link Controller, the queue and the phases,
what holds across the frames that the host link's bytes bring, and the obligations that follow. -/

namespace Sys2Proof.Machine

/-- Settles O1. -/
theorem stepTakesTheFrontCommand : Obligations.StepTakesTheFrontCommand :=
  ⟨fun _ _ _ => rfl, fun s h => by unfold step; rw [h]⟩

/-! ## What a block leaves -/

/-- The Host Link Controller, the queue, the reset phase and the Run Clock are no block's. -/
structure State.SameHost (s t : State) : Prop where
  host       : t.host = s.host
  pending    : t.pending = s.pending
  resetPhase : t.resetPhase = s.resetPhase
  runClock   : t.runClock = s.runClock

theorem State.SameFrame.sameHost {s t : State} (h : s.SameFrame t) : s.SameHost t := ⟨h.host, h.pending, h.resetPhase, h.runClock⟩

/-- The changes before the blocks' own, to other fields. -/
theorem State.SameHost.of_eq {s u t : State} (h : u.SameHost t) (hhost : u.host = s.host) (hpending : u.pending = s.pending)
    (hphase : u.resetPhase = s.resetPhase) (hclock : u.runClock = s.runClock) : s.SameHost t :=
  ⟨h.host.trans hhost, h.pending.trans hpending, h.resetPhase.trans hphase, h.runClock.trans hclock⟩

theorem Settles.sameHost {s t : State} (h : Settles s t) : s.SameHost t := by
  cases h with
  | touch ht => exact ht.frame.sameHost
  | bypass _ _ ht => exact ht.frame.sameHost.of_eq rfl rfl rfl rfl
  | clock _ ht => exact ht.frame.sameHost.of_eq rfl rfl rfl rfl
  | commit => exact s.enterMonitoring_touch.frame.sameHost.of_eq rfl rfl rfl rfl
  | suspend =>
    have h := s.linesSuspended_touch.frame
    rw [State.suspendAll_eq]
    generalize s.linesSuspended = u at h ⊢
    exact ⟨h.host, h.pending, h.resetPhase, h.runClock⟩
  | notices => unfold State.queueGap; split <;> exact ⟨rfl, rfl, rfl, rfl⟩
  | _ => exact ⟨rfl, rfl, rfl, rfl⟩

/-- Free values drawn stay drawn. -/
theorem Touch.freeDraws_le {sc : Scope} {s t : State} (h : Touch sc s t) : s.freeDraws ≤ t.freeDraws := by
  induction h with
  | trans _ _ ih1 ih2 => exact Nat.le_trans ih1 ih2
  | note s o n => exact Nat.le_of_eq (State.notify_freeDraws ..).symm
  | draw s => exact Nat.le_succ _
  | _ => exact Nat.le_refl _

theorem Settles.freeDraws_le {s t : State} (h : Settles s t) : s.freeDraws ≤ t.freeDraws := by
  cases h with
  | touch ht => exact ht.freeDraws_le
  | bypass _ _ ht => exact ht.freeDraws_le
  | clock _ ht => exact ht.freeDraws_le
  | commit => exact s.enterMonitoring_touch.freeDraws_le
  | suspend =>
    have h := s.linesSuspended_touch.freeDraws_le
    rw [State.suspendAll_eq]
    generalize s.linesSuspended = u at h ⊢
    exact h
  | notices => unfold State.queueGap; split <;> exact Nat.le_refl _
  | _ => exact Nat.le_refl _

/-! ## Frames that the host link's bytes bring -/

section
variable {P : State → Prop} (receiver : ∀ s r, P s → P { s with host := { s.host with receiver := r } })
  (unknown : ∀ kind s, P s → P (hostUnknownKind kind s))
  (request : ∀ i kind lengths p s, requestForm i = some (kind, lengths, p) → P s → P (s.request kind lengths (requestBlock i) p))

include unknown request in
/-- What holds across every request, and across a kind that names none, holds across a frame. -/
theorem State.takeFrame_keeps {s : State} (h : P s) (f : Byte × List Byte) : P (s.takeFrame f) := by
  unfold State.takeFrame
  split
  · rename_i row hrow
    obtain ⟨i, lengths, hform, hmeaning⟩ := requestTable_row (List.mem_of_find?_eq_some hrow) f.2
    rw [hmeaning]
    exact request i _ _ _ s hform h
  · exact unknown _ s h

include receiver unknown request

theorem State.receive_keeps {s : State} (h : P s) (gap : Bool) (bytes : List Byte) : P (s.receive gap bytes) := by
  have frames : ∀ (fs : List (Byte × List Byte)) s, P s → P (fs.foldl State.takeFrame s) := by
    intro fs
    induction fs with
    | nil => exact fun _ h => h
    | cons f fs ih => exact fun s h => ih _ (State.takeFrame_keeps unknown request h f)
  exact frames _ _ (receiver s _ h)

theorem State.takeHostByte_keeps {s : State} (h : P s) (b : Byte) : P (s.takeHostByte b) := by
  unfold State.takeHostByte
  split
  · exact h
  all_goals exact State.receive_keeps receiver unknown request h _ _

theorem State.takeHostGap_keeps {s : State} (h : P s) : P s.takeHostGap := by
  unfold State.takeHostGap
  split
  · exact h
  · exact h
  · exact State.receive_keeps receiver unknown request h _ _

end

/-- What holds across every change of the Host Link Controller and every change of a block holds across each of the host link's bytes and gaps. -/
theorem State.bytes_keep {P : State → Prop} (host : ∀ s h, P s → P { s with host := h }) (settles : ∀ s t, Settles s t → P s → P t)
    {s : State} (h : P s) : (∀ b, P (s.takeHostByte b)) ∧ P s.takeHostGap := by
  have unknown : ∀ kind s, P s → P (hostUnknownKind kind s) := fun kind s h => by unfold hostUnknownKind; split <;> exact host _ _ h
  have request : ∀ i kind lengths p s, requestForm i = some (kind, lengths, p) → P s → P (s.request kind lengths (requestBlock i) p) :=
    fun i kind lengths p s _ h => State.request_cases h (host _ _ h) (fun _ => host _ _ h) fun _ => host _ _ (settles _ _ (.request i p s) h)
  exact ⟨fun b => State.takeHostByte_keeps (fun _ _ h => host _ _ h) unknown request h b,
    State.takeHostGap_keeps (fun _ _ h => host _ _ h) unknown request h⟩

/-! ## Each command answers a next state -/

/-- The queue stays, and free values drawn stay drawn. -/
def State.queueKept (s t : State) : Prop := t.pending = s.pending ∧ s.freeDraws ≤ t.freeDraws

theorem Settles.queueKept {s t u : State} (h : Settles t u) (hs : s.queueKept t) : s.queueKept u :=
  ⟨h.sameHost.pending.trans hs.1, Nat.le_trans hs.2 h.freeDraws_le⟩

theorem event_queueKept {i : Instr} {s t : State} (hf : requestForm i = none) (hc : carriesAny i = false) (he : exec i s = .next t) :
    s.queueKept t := by
  have same : s.queueKept s := ⟨rfl, Nat.le_refl _⟩
  rcases event_touch hf hc he with ht | rfl | rfl | rfl | rfl | ⟨a, b, rfl⟩
  · exact ⟨ht.frame.pending, ht.freeDraws_le⟩
  · cases he; unfold State.tickRunClock; split <;> exact same
  · cases he; unfold State.advancePlant; (repeat' split) <;> exact same
  · cases he; unfold State.limitPlant; (repeat' split) <;> exact same
  · cases he; unfold State.takeRelease; split <;> exact same
  · cases he; unfold State.takeStartUpEnd; split <;> exact same

/-- Every command has a next state: the model stops nowhere. -/
theorem exec_next (c : Instr) (s : State) : ∃ t, exec c s = .next t := by cases c <;> exact ⟨_, rfl⟩

theorem exec_queueKept {c : Instr} {s t : State} (he : exec c s = .next t) : s.queueKept t := by
  have same : s.queueKept s := ⟨rfl, Nat.le_refl _⟩
  cases hf : requestForm c with
  | some f =>
    obtain ⟨kind, lengths, p⟩ := f
    rw [exec_request hf] at he
    cases he
    exact State.request_cases (P := s.queueKept) same same (fun _ => same) fun _ => (Settles.request c p s).queueKept same
  | none =>
    cases hc : carriesAny c with
    | false => exact event_queueKept hf hc he
    | true =>
      have bytes := State.bytes_keep (P := s.queueKept) (fun _ _ h => h) (fun _ _ ht h => ht.queueKept h) same
      cases c
      case hostByteReceived b => cases he; exact bytes.1 b
      case hostCharacterGapExpiry => cases he; exact bytes.2
      case responseSent => cases he; unfold State.takeResponseSent; (repeat' split) <;> exact same
      case resetPin => cases he; exact same
      all_goals exact nomatch hc

/-- Settles O2. -/
theorem everyCommandAnswersANextState : Obligations.EveryCommandAnswersANextState := by
  intro c s
  obtain ⟨t, he⟩ := exec_next c s
  exact ⟨t, he, exec_queueKept he⟩

/-! ## Reset, start-up and the end of a response (R189) -/

theorem State.takeRelease_held {s : State} (h : s.resetPhase = .held) : s.takeRelease = { s with resetPhase := .startUp } := by
  unfold State.takeRelease; rw [h]

theorem State.takeRelease_other {s : State} (h : s.resetPhase ≠ .held) : s.takeRelease = s := by
  unfold State.takeRelease
  split
  · rename_i hh; exact absurd hh h
  all_goals rfl

theorem State.takeStartUpEnd_startUp {s : State} (h : s.resetPhase = .startUp) (rate1 rate0 : Bool) :
    s.takeStartUpEnd rate1 rate0 = { s with
      resetPhase := .running, host := { s.host with receiver := .hunting, rate1 := rate1, rate0 := rate0 } } := by
  unfold State.takeStartUpEnd; rw [h]

theorem State.takeStartUpEnd_other {s : State} (h : s.resetPhase ≠ .startUp) (rate1 rate0 : Bool) : s.takeStartUpEnd rate1 rate0 = s := by
  unfold State.takeStartUpEnd
  split
  · rename_i hh; exact absurd hh h
  all_goals rfl

theorem State.takeResponseSent_none {s : State} (h : s.host.sending = none) : s.takeResponseSent = s := by
  unfold State.takeResponseSent; rw [h]

theorem State.takeResponseSent_restart {s : State} {r : Response} (h : s.host.sending = some r) (hr : r.kind = 0xBF#8 ∧ r.result = .ok) :
    s.takeResponseSent = s.afterReset .startUp := by
  unfold State.takeResponseSent; rw [h]; exact if_pos hr

theorem State.takeResponseSent_other {s : State} {r : Response} (h : s.host.sending = some r) (hr : ¬(r.kind = 0xBF#8 ∧ r.result = .ok)) :
    s.takeResponseSent = { s with host := { s.host with sending := none } } := by
  unfold State.takeResponseSent; rw [h]; exact if_neg hr

/-- Settles O4: each event by the phase, or by the response being sent. -/
theorem resetStartUpAndResponseEnd : Obligations.ResetStartUpAndResponseEnd := fun _ =>
  ⟨rfl, fun h => congrArg _ (State.takeRelease_held h), fun h => congrArg _ (State.takeRelease_other h),
    fun h a b => congrArg _ (State.takeStartUpEnd_startUp h a b), fun h a b => congrArg _ (State.takeStartUpEnd_other h a b),
    fun _ h => ⟨fun hr => congrArg _ (State.takeResponseSent_restart h hr), fun hr => congrArg _ (State.takeResponseSent_other h hr)⟩,
    fun h => congrArg _ (State.takeResponseSent_none h)⟩

/-! ## While reset or start-up holds the part -/

/-- The values after reset, in a phase and at a Run Clock: what the part holds in reset and start-up. -/
def State.held (pending : List Instr) (draws : Nat) (phase : ResetPhase) (clock : Tick) : State :=
  { State.reset with pending := pending, freeDraws := draws, resetPhase := phase, runClock := clock }

section
variable (q : List Instr) (n : Nat) (phase : ResetPhase) (c : Tick)

theorem State.held_line? (l : Fin 8) : (State.held q n phase c).line? l = none := State.reset_line? l

theorem State.held_round (k : Fin 4) : ((State.held q n phase c).link k).round = none := by
  rw [show (State.held q n phase c).link k = Link.reset from State.reset_link k]; rfl

theorem State.held_state (k : Fin 4) : ((State.held q n phase c).link k).state = .idle := by
  rw [show (State.held q n phase c).link k = Link.reset from State.reset_link k]; rfl

theorem State.held_withLive (l : Fin 8) (f : Line → Live → State) : (State.held q n phase c).withLive l f = State.held q n phase c := by
  unfold State.withLive; rw [State.held_line?]

/-- Every command but the pins' and the Run Clock's leaves the values after reset as they are: no request is taken, and no timer, clock, line or
link has anything to do. -/
theorem exec_held {i : Instr} (hpin : i ≠ .resetPin) (hrelease : i ≠ .resetRelease) (hend : ∀ a b, i ≠ .startUpEnd a b)
    (htick : i ≠ .runClockTick) : exec i (State.held q n phase c) = .next (State.held q n phase c) := by
  cases hf : requestForm i with
  | some f => rw [exec_request hf, State.request_idle rfl]
  | none =>
    cases i
    case roundStart k => exact congrArg _ (State.takeRoundStart_idle (State.held_state q n phase c k))
    case idleCheckExpiry k => exact congrArg _ (State.takeIdleCheck_no_round (State.held_round q n phase c k))
    case skippedBusy w => exact congrArg _ (State.takeBusy_no_round (State.held_round q n phase c w.link) _)
    case pollSent k => exact congrArg _ (State.takePollSent_no_round (State.held_round q n phase c k))
    case replyWaitExpiry k => exact congrArg _ (State.takeReplyWait_no_round (State.held_round q n phase c k))
    case replyReceived k w => exact congrArg _ (State.takeReply_no_round (State.held_round q n phase c k) w)
    case replyGapExpiry k => exact congrArg _ (State.takeReplyGap_no_round (State.held_round q n phase c k))
    case replyCharacterReceived k e => exact congrArg _ (State.takeReplyChar_no_round (State.held_round q n phase c k) e)
    case ageLimit l => exact congrArg _ (State.held_withLive q n phase c l _)
    case promotionExpiry l => exact congrArg _ (State.held_withLive q n phase c l _)
    case confirmationExpiry l => exact congrArg _ (State.held_withLive q n phase c l _)
    case longStopExpiry l => exact congrArg _ (State.held_withLive q n phase c l _)
    case durationCapExpiry l => exact congrArg _ (State.held_withLive q n phase c l _)
    case allowanceExpiry l => exact congrArg _ (State.held_withLive q n phase c l _)
    case windowExpiry l => exact congrArg _ (State.held_withLive q n phase c l _)
    case resetPin => exact absurd rfl hpin
    case resetRelease => exact absurd rfl hrelease
    case startUpEnd a b => exact absurd rfl (hend a b)
    case runClockTick => exact absurd rfl htick
    case hostByteReceived => rfl
    case hostCharacterGapExpiry => rfl
    case responseSent => rfl
    case plantSecondAdvance => rfl
    case plantClockLimit => rfl
    case triggerExpiry => rfl
    case gapExpiry => rfl
    all_goals exact nomatch hf

/-- What the part holds in reset and start-up, as a soundness statement. -/
theorem State.held_resetSound (h : phase = .held → c = 0#32) : (State.held q n phase c).resetSound := fun _ => ⟨rfl, h⟩

/-- In reset and start-up every command keeps the values after reset, or ends start-up. -/
theorem exec_held_resetSound (hclock : phase = .held → c = 0#32) {i : Instr} {t : State}
    (he : exec i (State.held q n phase c) = .next t) : t.resetSound := by
  have hs := State.held_resetSound q n phase c hclock
  by_cases hpin : i = .resetPin
  · subst hpin; cases he; exact State.held_resetSound q n .held 0#32 fun _ => rfl
  by_cases hrelease : i = .resetRelease
  · subst hrelease; cases he
    unfold State.takeRelease
    split
    · exact State.held_resetSound q n .startUp c fun h => nomatch h
    all_goals exact hs
  by_cases hend : ∃ a b, i = .startUpEnd a b
  · obtain ⟨a, b, rfl⟩ := hend; cases he
    unfold State.takeStartUpEnd
    split
    · exact fun h => absurd rfl h
    all_goals exact hs
  by_cases htick : i = .runClockTick
  · subst htick; cases he
    cases hphase : phase with
    | held => subst hphase; exact hs
    | startUp => exact State.held_resetSound q n .startUp (c + 1) fun h => nomatch h
    | running => exact fun h => absurd rfl h
  · rw [exec_held q n phase c hpin hrelease (fun a b e => hend ⟨a, b, e⟩) htick] at he
    cases he; exact hs

end

/-- A running part stays running, but for RESET# and RESTART, which put it at the values after reset. -/
theorem exec_running_resetSound {i : Instr} {s t : State} (hs : s.resetPhase = .running) (he : exec i s = .next t) : t.resetSound := by
  have running : ∀ u : State, u.resetPhase = .running → u.resetSound := fun u hu h => absurd hu h
  have reset : ∀ phase, (s.afterReset phase).resetSound := fun phase => State.held_resetSound s.pending s.freeDraws phase 0#32 fun _ => rfl
  cases hf : requestForm i with
  | some f =>
    obtain ⟨kind, lengths, p⟩ := f
    rw [exec_request hf] at he
    cases he
    exact running _ (State.request_cases (P := fun u => u.resetPhase = .running) hs hs (fun _ => hs) fun _ =>
      (Settles.request i p s).sameHost.resetPhase.trans hs)
  | none =>
    cases hc : carriesAny i with
    | false =>
      refine running _ ?_
      rcases event_touch hf hc he with ht | rfl | rfl | rfl | rfl | ⟨a, b, rfl⟩
      · exact ht.frame.resetPhase.trans hs
      · cases he; unfold State.tickRunClock; split <;> exact hs
      · cases he; unfold State.advancePlant; (repeat' split) <;> exact hs
      · cases he; unfold State.limitPlant; (repeat' split) <;> exact hs
      · cases he; rw [State.takeRelease_other (by rw [hs]; decide)]; exact hs
      · cases he; rw [State.takeStartUpEnd_other (by rw [hs]; decide)]; exact hs
    | true =>
      have bytes := State.bytes_keep (P := fun u => u.resetPhase = .running) (fun _ _ h => h)
        (fun _ _ ht h => ht.sameHost.resetPhase.trans h) hs
      cases i
      case hostByteReceived b => cases he; exact running _ (bytes.1 b)
      case hostCharacterGapExpiry => cases he; exact running _ bytes.2
      case responseSent =>
        cases he
        unfold State.takeResponseSent
        split
        · exact running _ hs
        · split
          · exact reset .startUp
          · exact running _ hs
      case resetPin => cases he; exact reset .held
      all_goals exact nomatch hc

/-- Settles O5: a part in reset or start-up does nothing, and a running one leaves its phase for the values after reset alone. -/
theorem resetHoldsEveryBlock : Obligations.ResetHoldsEveryBlock := by
  intro s t hs hstep
  unfold step at hstep
  split at hstep
  · rename_i i rest _
    by_cases hrun : s.resetPhase = .running
    · exact exec_running_resetSound (s := { s with pending := rest }) hrun hstep
    · obtain ⟨hheld, hclock⟩ := hs hrun
      have e : { s with pending := rest } = State.held rest s.freeDraws s.resetPhase s.runClock := by rw [hheld]; rfl
      rw [e] at hstep
      exact exec_held_resetSound _ _ _ _ hclock hstep
  · cases hstep; exact hs

/-! ## The four ways of a request (R183, R184, R189) -/

/-- Settles O6: a block leaves the Host Link Controller, so that the response is built from it as it stood at the request. -/
theorem requestIsLostDiscardedRefusedOrAnswered : Obligations.RequestIsLostDiscardedRefusedOrAnswered := by
  intro i kind lengths p s hform
  refine ⟨fun hidle => ?_, fun hactive hsending => ?_, fun hready hlen => exec_badLength hform hready hlen, fun hready hlen => ?_⟩
  · rw [exec_request hform, State.request_idle hidle]
  · rw [exec_request hform, State.request_overrun hactive hsending]
  · have hhost := (Settles.request i p s).sameHost.host
    exact ⟨_, _, exec_ready hform hready hlen, by rw [State.respond, hhost], rfl, rfl⟩

/-- Settles O11. -/
theorem identifyAndRestartAreAnswered : Obligations.IdentifyAndRestartAreAnswered := by
  intro s hready
  refine ⟨exec_of_requestBlock (rfl : requestForm (.identify []) = some (0x3E#8, [0], [])) hready (List.mem_singleton.mpr rfl) ?_,
    exec_of_requestBlock (rfl : requestForm (.restart []) = some (0x3F#8, [0], [])) hready (List.mem_singleton.mpr rfl) rfl⟩
  show identifyReq [] s = _
  unfold identifyReq
  cases s.partState <;> rfl

end Sys2Proof.Machine
end

section
/-! The Journal and the Attention Unit (chapter 10): what a notice handed in does and what TAKE_NOTICES takes out, the answer of each request
case by case, and the four obligations that follow from these. -/

namespace Sys2Proof.Machine

/-! ## A notice handed to the Journal (R170, R176, R177) -/

section
variable {s : State} {line : Option (Fin 8)} {body : NoticeBody}

/-- Without room, or while a loss is outstanding, the notice is counted. -/
theorem State.notify_counted (hmask : s.journal.mask.getLsbD body.kind = false)
    (hroom : ¬(s.journal.queue.length < 512 ∧ s.journal.gapCount = 0)) :
    s.notify line body = { s with journal := { s.journal with gapCount := satAdd s.journal.gapCount 1 } } := by
  rw [State.notify, if_neg (Bool.eq_false_iff.mp hmask), if_neg hroom]

/-- In LEVEL a queuing sets NOTICE; in FIRST it does so when the queue was empty. -/
theorem Attention.queued_notice (a : Attention) (wasEmpty reached : Bool) :
    (a.queued wasEmpty reached).flags.notice = (a.flags.notice || wasEmpty || a.mode == .level) := by
  cases hmode : a.mode <;> simp [Attention.queued, hmode]

theorem Attention.queued_high (a : Attention) (wasEmpty reached : Bool) :
    (a.queued wasEmpty reached).flags.high = (a.flags.high || reached) := rfl

theorem Attention.queued_eq (a : Attention) (wasEmpty reached : Bool) :
    a.queued wasEmpty reached = { a with flags := { a.flags with
      notice := a.flags.notice || wasEmpty || a.mode == .level, high := a.flags.high || reached } } := by
  rw [← a.queued_notice wasEmpty reached, ← a.queued_high wasEmpty reached]
  rfl

theorem State.enqueue_eq (s : State) (line : Option (Fin 8)) (body : NoticeBody) :
    s.enqueue line body = { s with
      journal := { s.journal with
        queue := s.journal.queue ++ [{ sequence := s.journal.nextSequence, line := line, tick := s.runClock
                                       plant := s.plantTime, body := body }]
        nextSequence := s.journal.nextSequence + 1 }
      attention := { s.attention with flags := { s.attention.flags with
        notice := s.attention.flags.notice || s.journal.queue.isEmpty || s.attention.mode == .level
        high := s.attention.flags.high || s.journal.queue.length + 1 == s.journal.watermark } } } := by
  simp only [State.enqueue, Attention.queued_eq, List.length_append, List.length_cons, List.length_nil, Nat.zero_add]

theorem State.enqueue_high (s : State) (line : Option (Fin 8)) (body : NoticeBody) :
    (s.enqueue line body).attention.flags.high = (s.attention.flags.high || s.journal.queue.length + 1 == s.journal.watermark) := by
  rw [State.enqueue_eq]

end

/-! ## A removal (R172, R176) -/

section
variable {a : Attention}

theorem Attention.removed_high (a : Attention) (empty : Bool) : (a.removed empty).flags.high = a.flags.high := by
  cases hmode : a.mode <;> simp [Attention.removed, hmode]

theorem Attention.removed_first (h : a.mode = .first) (empty : Bool) : a.removed empty = a := by simp [Attention.removed, h]

theorem Attention.removed_enables (a : Attention) (empty : Bool) : (a.removed empty).enables = a.enables := by
  cases hmode : a.mode <;> simp [Attention.removed, hmode]

/-- A removal touches NOTICE alone. -/
theorem Attention.removed_flags (a : Attention) (empty : Bool) :
    { (a.removed empty).flags with notice := false } = { a.flags with notice := false } := by
  cases hmode : a.mode <;> simp [Attention.removed, hmode]

end

/-- Settles O13: the three outcomes of a hand-over, and what the queuing and the removal do to HIGH. -/
theorem noticeIsMaskedQueuedOrCountedAndHighLatched : Obligations.NoticeIsMaskedQueuedOrCountedAndHighLatched := by
  intro s line body
  refine ⟨State.notify_masked, fun hmask hroom hgap => ?_, State.notify_counted, s.enqueue_high line body, s.enqueue_queue_length line body,
    fun n => s.attention.removed_high _⟩
  rw [State.notify_queued hmask hroom hgap, State.enqueue_eq]

/-! ## TAKE_NOTICES (R171, R172) -/

section
variable {p : List Byte} {s : State}

theorem takeNotices_badValue (h : u8 p 0 < 1 ∨ 10 < u8 p 0) : takeNotices p s = (s, .badValue) := by
  rw [takeNotices, if_pos h]

theorem takeNotices_empty (hlow : 1 ≤ u8 p 0) (hhigh : u8 p 0 ≤ 10) (hq : s.journal.queue = []) :
    takeNotices p s = (s, .refuse .empty) := by
  rw [takeNotices, if_neg (by omega), if_pos (List.isEmpty_iff.mpr hq)]

theorem takeNotices_ok (hlow : 1 ≤ u8 p 0) (hhigh : u8 p 0 ≤ 10) (hq : s.journal.queue ≠ []) :
    takeNotices p s = ((s.dropNotices (u8 p 0)).queueGap,
      .ok (encList Notice.bytes (s.journal.queue.take (u8 p 0)) ++ enc2 (s.dropNotices (u8 p 0)).queueGap.journal.queue.length
        ++ enc4 (s.dropNotices (u8 p 0)).queueGap.journal.gapCount ++ enc2 (s.dropNotices (u8 p 0)).queueGap.journal.nextSequence.toNat)) := by
  rw [takeNotices, if_neg (by omega), if_neg (mt List.isEmpty_iff.mp hq)]

end

section
variable {s : State} {n : Nat}

theorem State.dropNotices_eq (s : State) (n : Nat) : s.dropNotices n =
    { s with journal := { s.journal with queue := s.journal.queue.drop n }
             attention := s.attention.removed (s.journal.queue.drop n).isEmpty } := rfl

theorem State.queueGap_none (h : s.journal.gapCount = 0) : s.queueGap = s := by rw [State.queueGap, if_pos h]

/-- The GAP notice is queued like any other, and the gap count is 0 again (R171). -/
theorem State.queueGap_some (h : 0 < s.journal.gapCount) : s.queueGap =
    { s.enqueue none (.gap s.journal.gapCount) with
      journal := { (s.enqueue none (.gap s.journal.gapCount)).journal with gapCount := 0 } } := by
  rw [State.queueGap, if_neg (by omega)]

theorem State.take_without_gap (h : s.journal.gapCount = 0) : (s.dropNotices n).queueGap = s.dropNotices n :=
  State.queueGap_none (s := s.dropNotices n) h

/-- With notices lost, the GAP notice stands after those that remain. -/
theorem State.take_with_gap (h : 0 < s.journal.gapCount) : (s.dropNotices n).queueGap =
    { s with
      journal := { s.journal with
        queue := s.journal.queue.drop n ++ [{ sequence := s.journal.nextSequence, line := none, tick := s.runClock, plant := s.plantTime
                                              body := .gap s.journal.gapCount }]
        nextSequence := s.journal.nextSequence + 1, gapCount := 0 }
      attention := (s.attention.removed (s.journal.queue.drop n).isEmpty).queued (s.journal.queue.drop n).isEmpty
        ((s.journal.queue.drop n).length + 1 == s.journal.watermark) } := by
  rw [State.queueGap_some (s := s.dropNotices n) h, State.dropNotices]
  simp only [State.enqueue, List.length_append, List.length_cons, List.length_nil, Nat.zero_add]
  rfl

/-- In LEVEL, NOTICE follows the queue that the removal and the GAP notice leave (R176). -/
theorem State.take_notice_level (h : s.attention.mode = .level) :
    (s.dropNotices n).queueGap.attention.flags.notice = !(s.dropNotices n).queueGap.journal.queue.isEmpty := by
  rcases Nat.eq_zero_or_pos s.journal.gapCount with hgap | hgap
  · rw [State.take_without_gap hgap]
    exact Attention.removed_level h _
  · simp [State.take_with_gap hgap, Attention.queued_notice, Attention.removed_mode, h]

theorem State.take_notice_first (h : s.attention.mode = .first) (hset : s.attention.flags.notice = true) :
    (s.dropNotices n).queueGap.attention.flags.notice = true := by
  rcases Nat.eq_zero_or_pos s.journal.gapCount with hgap | hgap
  · rwa [State.take_without_gap hgap, State.dropNotices, Attention.removed_first h]
  · simp [State.take_with_gap hgap, Attention.queued_notice, Attention.removed_first h, hset]

theorem State.take_high (s : State) (n : Nat) : (s.dropNotices n).queueGap.attention.flags.high = (s.attention.flags.high
    || (decide (0 < s.journal.gapCount) && (s.journal.queue.drop n).length + 1 == s.journal.watermark)) := by
  rcases Nat.eq_zero_or_pos s.journal.gapCount with hgap | hgap
  · rw [State.take_without_gap hgap, hgap, State.dropNotices_eq]
    simp [Attention.removed_high]
  · simp only [State.take_with_gap hgap, Attention.queued_high, Attention.removed_high, decide_eq_true hgap, Bool.true_and]

theorem State.take_other_flags (s : State) (n : Nat) :
    { (s.dropNotices n).queueGap.attention.flags with notice := false, high := false }
      = { s.attention.flags with notice := false, high := false } := by
  have hremoved : ∀ e, { (s.attention.removed e).flags with notice := false, high := false }
      = { s.attention.flags with notice := false, high := false } := fun e =>
    congrArg (fun f : AttentionSet => { f with high := false }) (s.attention.removed_flags e)
  rcases Nat.eq_zero_or_pos s.journal.gapCount with hgap | hgap
  · rw [State.take_without_gap hgap]
    exact hremoved _
  · rw [State.take_with_gap hgap]
    exact hremoved _

theorem State.take_settings (s : State) (n : Nat) : (s.dropNotices n).queueGap.attention.enables = s.attention.enables
    ∧ (s.dropNotices n).queueGap.attention.mode = s.attention.mode := by
  rcases Nat.eq_zero_or_pos s.journal.gapCount with hgap | hgap
  · rw [State.take_without_gap hgap]
    exact ⟨s.attention.removed_enables _, s.attention.removed_mode _⟩
  · rw [State.take_with_gap hgap]
    exact ⟨s.attention.removed_enables _, s.attention.removed_mode _⟩

theorem State.take_frame (s : State) (n : Nat) : (s.dropNotices n).queueGap =
    { s with journal := (s.dropNotices n).queueGap.journal, attention := (s.dropNotices n).queueGap.attention } := by
  rcases Nat.eq_zero_or_pos s.journal.gapCount with hgap | hgap
  · rw [State.take_without_gap hgap, State.dropNotices_eq]
  · rw [State.take_with_gap hgap]

end

/-- Settles O15: the two refusals; then the removal and the GAP notice, part by part. -/
theorem takeNoticesRemovesTheOldest : Obligations.TakeNoticesRemovesTheOldest := by
  intro s p hready hlen
  have hlen' : p.length ∈ [1] := List.mem_singleton.mpr hlen
  refine ⟨fun hbad => exec_of_requestBlock rfl hready hlen' (takeNotices_badValue hbad),
    fun hlow hhigh hq => exec_of_requestBlock rfl hready hlen' (takeNotices_empty hlow hhigh hq),
    fun hlow hhigh hq => ⟨(s.dropNotices (u8 p 0)).queueGap, exec_of_requestBlock rfl hready hlen' (takeNotices_ok hlow hhigh hq),
      s.take_frame _, fun hgap => ?_, fun hgap => ?_, State.take_notice_level, State.take_notice_first, fun hfirst hgap => ?_,
      s.take_high _, s.take_other_flags _, s.take_settings _⟩⟩
  · rw [State.take_without_gap hgap, State.dropNotices_eq]
  · rw [State.take_with_gap hgap]
  · rw [State.take_without_gap hgap, State.dropNotices_eq, Attention.removed_first hfirst]

/-! ## READ_ATTENTION, CLEAR_ATTENTION and SET_ATTENTION (R178, R179) -/

/-- Settles O17: the block's answer as it stands, for every state of the unit. -/
theorem readAttentionAnswersTheUnit : Obligations.ReadAttentionAnswersTheUnit := by
  intro s p hready
  refine ⟨fun hlen => exec_badLength rfl hready (by simpa using hlen), exec_of_requestBlock rfl hready (by simp) rfl⟩

section
variable {p : List Byte} {s : State}

theorem clearAttention_badValue (h : 64 ≤ u8 p 0) : clearAttention p s = (s, .badValue) := by rw [clearAttention, if_pos h]

theorem clearAttention_ok (h : u8 p 0 < 64) : clearAttention p s =
    ({ s with attention := s.attention.clear (AttentionSet.ofMask (u8 p 0)) s.journal.queue.isEmpty },
      .ok (enc1 (s.attention.clear (AttentionSet.ofMask (u8 p 0)) s.journal.queue.isEmpty).flags.toMask)) := by
  rw [clearAttention, if_neg (by omega)]

/-- Clearing touches the flags alone. -/
theorem Attention.clear_eq (a : Attention) (named : AttentionSet) (empty : Bool) :
    a.clear named empty = { a with flags := (a.clear named empty).flags } := by
  cases hmode : a.mode <;> simp [Attention.clear, hmode]

/-- NOTICE is cleared by its name, in LEVEL only over an empty queue. -/
theorem Attention.clear_notice (a : Attention) (named : AttentionSet) (empty : Bool) : (a.clear named empty).flags.notice
    = (a.flags.notice && !(named.notice && (a.mode == NoticeMode.first || empty))) := by
  cases hmode : a.mode with
  | level =>
    have hne : (NoticeMode.level == NoticeMode.first) = false := rfl
    simp [Attention.clear, hmode, hne]
  | first => simp [Attention.clear, AttentionSet.minus, hmode]

theorem Attention.clear_flags (a : Attention) (named : AttentionSet) (empty : Bool) :
    { (a.clear named empty).flags with notice := false } = { a.flags.minus named with notice := false } := by
  cases hmode : a.mode <;> simp [Attention.clear, hmode]

theorem setAttention_badFlags (h : 64 ≤ u8 p 0) : setAttention p s = (s, .badValue) := by rw [setAttention, if_pos h]

theorem NoticeMode.ofCode_none {n : Nat} (h : 1 < n) : NoticeMode.ofCode n = none := by
  match n, h with
  | n + 2, _ => rfl

theorem NoticeMode.ofCode_some {n : Nat} (h : n ≤ 1) : NoticeMode.ofCode n = some (if n = 0 then .level else .first) := by
  match n, h with
  | 0, _ => rfl
  | 1, _ => rfl

theorem setAttention_badMode (h : 1 < u8 p 1) : setAttention p s = (s, .badValue) := by
  rw [setAttention, NoticeMode.ofCode_none h]
  simp

theorem setAttention_ok (hflags : u8 p 0 < 64) (hmode : u8 p 1 ≤ 1) : setAttention p s =
    ({ s with
      attention := s.attention.set (AttentionSet.ofMask (u8 p 0)) (if u8 p 1 = 0 then .level else .first) s.journal.queue.isEmpty },
      .ok) := by
  rw [setAttention, if_neg (by omega), NoticeMode.ofCode_some hmode]

/-- Only a change to LEVEL moves NOTICE: it is set from the queue. -/
theorem Attention.set_eq (a : Attention) (enables : AttentionSet) (mode : NoticeMode) (empty : Bool) : a.set enables mode empty =
    { flags := { a.flags with notice := if a.mode = .first ∧ mode = .level then !empty else a.flags.notice }, enables := enables
      mode := mode } := by
  cases hheld : a.mode <;> cases mode <;> simp [Attention.set, hheld]

end

/-- Settles O18: each request by its block's answer; the flags of CLEAR_ATTENTION one by one, NOTICE apart. -/
theorem attentionIsClearedAndSet : Obligations.AttentionIsClearedAndSet := by
  intro s p hready
  refine ⟨fun hlen => exec_badLength rfl hready (by simpa using hlen),
    fun hlen hbad => exec_of_requestBlock rfl hready (by simp [hlen]) (clearAttention_badValue hbad), fun hlen hok => ?_,
    fun hlen => exec_badLength rfl hready (by simpa using hlen),
    fun hlen hbad => exec_of_requestBlock rfl hready (by simp [hlen]) (hbad.elim setAttention_badFlags setAttention_badMode),
    fun hlen hflags hmode => ?_⟩
  · have hothers := s.attention.clear_flags (AttentionSet.ofMask (u8 p 0)) s.journal.queue.isEmpty
    injection hothers with hlink hstop hperiod hhigh hclock
    refine ⟨(s.attention.clear (AttentionSet.ofMask (u8 p 0)) s.journal.queue.isEmpty).flags, ?_, hlink, hstop, hperiod, hhigh, hclock,
      s.attention.clear_notice _ _⟩
    rw [← Attention.clear_eq]
    exact exec_of_requestBlock rfl hready (by simp [hlen]) (clearAttention_ok hok)
  · refine (exec_of_requestBlock (i := .setAttention p) rfl hready (by simp [hlen]) (setAttention_ok hflags hmode)).trans ?_
    rw [Attention.set_eq]
    have hlevel : ((if u8 p 1 = 0 then NoticeMode.level else .first) = .level) = (u8 p 1 = 0) := by
      by_cases h : u8 p 1 = 0 <;> simp [h]
    simp only [hlevel]
    rfl

end Sys2Proof.Machine
end

section
/-! Rules about the state's shared operations, each said once: acting on a live line, handing a notice to the Journal beside other updates, what a
change in a scope leaves (`State.SameBeside`), and counting up. -/

namespace Sys2Proof.Machine

/-! ## A live line -/

section
variable {s : State} {l : Fin 8} {ln : Line} {lv : Live}

theorem State.withLive_onLine (h : s.onLine l ln lv) (k : Line → Live → State) : s.withLive l k = k ln lv := by
  obtain ⟨hline, hlive⟩ := h
  simp only [State.withLive, hline, hlive]

theorem State.updLine_some (h : s.line? l = some ln) (f : Line → Line) : s.updLine l f = s.setLine l (some (f ln)) := by
  rw [State.updLine, h, Option.map_some]

theorem State.updLive_onLine (h : s.onLine l ln lv) (f : Live → Live) :
    s.updLive l f = s.setLine l (some { ln with live := some (f lv) }) := by
  obtain ⟨hline, hlive⟩ := h
  rw [State.updLive, State.updLine_some hline, hlive, Option.map_some]

theorem State.setLine_setLine (s : State) (l : Fin 8) (x y : Option Line) : (s.setLine l x).setLine l y = s.setLine l y := by
  simp [State.setLine]

theorem State.setLine_onLine (s : State) (l : Fin 8) (ln : Line) (lv : Live) :
    (s.setLine l (some { ln with live := some lv })).onLine l { ln with live := some lv } lv :=
  ⟨s.line?_setLine_same l _, rfl⟩

theorem State.notify_onLine (h : s.onLine l ln lv) (o : Option (Fin 8)) (n : NoticeBody) : (s.notify o n).onLine l ln lv := by
  obtain ⟨hline, hlive⟩ := h
  exact ⟨(s.notify_line? o n l).trans hline, hlive⟩

theorem State.latch_setLine (s : State) (l : Fin 8) (x : Option Line) (f : AttentionFlag) :
    (s.latch f).setLine l x = (s.setLine l x).latch f := rfl

end

/-! ## The Journal and the Attention Unit beside other updates -/

section
variable {s t : State} (o : Option (Fin 8)) (b : NoticeBody)

theorem State.plantTime_congr (hclock : t.runClock = s.runClock) (hplant : t.plant = s.plant) : t.plantTime = s.plantTime := by
  simp only [State.plantTime, State.plantNow, hclock, hplant]

/-- A hand-over sees the clocks, the Journal and the Attention Unit, and nothing else. -/
theorem State.notify_congr (hjournal : t.journal = s.journal) (hattention : t.attention = s.attention) (hclock : t.runClock = s.runClock)
    (hplant : t.plant = s.plant) :
    (t.notify o b).journal = (s.notify o b).journal ∧ (t.notify o b).attention = (s.notify o b).attention := by
  have htime := State.plantTime_congr hclock hplant
  unfold State.notify
  rw [hjournal]
  split
  · exact ⟨hjournal, hattention⟩
  · split
    · simp [State.enqueue, hjournal, hattention, hclock, htime]
    · exact ⟨rfl, hattention⟩

end

/-! ## What a change in a scope leaves -/

section
variable {sc : Scope} {s t : State}

theorem Touch.links_same (h : Touch sc s t) (hlinks : ∀ k, ¬sc.link k) : t.links = s.links :=
  Vector.ext fun k hk => h.otherLink ⟨k, hk⟩ (hlinks _)

theorem Touch.triggers_same (h : Touch sc s t) (htriggers : ∀ k, ¬sc.trigger k) : t.triggers = s.triggers :=
  Vector.ext fun k hk => h.otherTrigger ⟨k, hk⟩ (htriggers _)

theorem Touch.line_defn (h : Touch sc s t) (l : Fin 8) : (t.line? l).map (·.defn) = (s.line? l).map (·.defn) := by
  induction h with
  | refl => rfl
  | trans _ _ ih1 ih2 => exact ih2.trans ih1
  | note s o n => rw [State.notify_line?]
  | line s l' ln ln' _ hx hf =>
    obtain ⟨hdefn, _⟩ := hf
    by_cases e : l = l'
    · subst e
      rw [State.line?_setLine_same, hx, Option.map_some, Option.map_some, hdefn]
    · rw [State.line?_setLine_other _ e]
  | _ => rfl

theorem StationsFollow.mem_elsewhere {rs qs : List Station} (h : StationsFollow sc rs qs) {r : Station} (hr : r ∈ rs)
    (hl : ¬sc.line r.line) : r ∈ qs := by
  induction h with
  | nil => exact hr
  | cons hfollows _ ih =>
    rcases List.mem_cons.mp hr with rfl | hr'
    · exact List.mem_cons.mpr (.inl (hfollows.2 hl).symm)
    · exact List.mem_cons.mpr (.inr (ih hr'))

/-- A record of a line out of scope stays as it is. -/
theorem Touch.station_elsewhere (h : Touch sc s t) {r : Station} (hr : r ∈ s.stations) (hl : ¬sc.line r.line) : r ∈ t.stations := by
  induction h with
  | refl => exact hr
  | trans _ _ ih1 ih2 => exact ih2 (ih1 hr)
  | note s o n => rwa [State.notify_stations]
  | stations s xs hx => exact hx.mem_elsewhere hr hl
  | _ => exact hr

theorem Touch.sameBeside (h : Touch sc s t) : s.SameBeside t sc.line where
  pending := h.frame.pending
  resetPhase := h.frame.resetPhase
  partState := h.frame.partState
  runClock := h.frame.runClock
  snapshot := h.frame.snapshot
  causeMap := h.frame.causeMap
  mask := h.frame.mask
  watermark := h.frame.watermark
  enables := h.attention.1
  mode := h.attention.2
  latched := h.latched
  defined := h.line_defn
  others := h.otherLine
  stations := h.config
  elsewhere := fun _ => h.station_elsewhere

end

/-! ## Counting up -/

section
variable (s : State)

theorem State.countUp_below {n : Nat} (h : n < 4294967295) : s.countUp n = (n + 1, s) := if_pos h

theorem State.countUp_past {n : Nat} (h : 4294967295 ≤ n) : s.countUp n = (s.freeCount, { s with freeDraws := s.freeDraws + 1 }) :=
  if_neg (Nat.not_lt.mpr h)

theorem State.freeCount_range : 1 ≤ s.freeCount ∧ s.freeCount ≤ 4294967295 := by
  have h : (Config.freeWord s.freeDraws).toNat % maxCount < 4294967295 := Nat.mod_lt _ (by decide)
  unfold State.freeCount
  omega

theorem State.takePeriodNumber_counter (l : Fin 8) : (s.takePeriodNumber l).2.periodCounter[l] = (s.takePeriodNumber l).1 := by
  simp [State.takePeriodNumber]

theorem State.takePeriodNumber_below {l : Fin 8} (h : s.periodCounter[l].toNat < 4294967295) :
    (s.takePeriodNumber l).1 = s.periodCounter[l] + 1#32 := by
  simp only [State.takePeriodNumber, s.countUp_below h]
  exact BitVec.eq_of_toNat_eq (by simp)

end

end Sys2Proof.Machine
end

section
/-! The close of a period (chapter 6): what charging leaves of a period, where a record is placed and what it displaces, the state that a close
leaves part by part, and the obligation on closes. -/

namespace Sys2Proof.Machine

/-! ## Charges leave a period's heading and runs -/

/-- The same line, number, start and product runs. -/
def Period.SameHeading (p q : Period) : Prop := q.line = p.line ∧ q.number = p.number ∧ q.start = p.start ∧ q.runs = p.runs

section
variable (p : Period)

theorem Period.SameHeading.refl : p.SameHeading p := ⟨rfl, rfl, rfl, rfl⟩

theorem Period.SameHeading.trans {p q r : Period} (h : p.SameHeading q) (k : q.SameHeading r) : p.SameHeading r := by
  obtain ⟨h1, h2, h3, h4⟩ := h
  obtain ⟨k1, k2, k3, k4⟩ := k
  exact ⟨k1.trans h1, k2.trans h2, k3.trans h3, k4.trans h4⟩

theorem Period.bucketCharge_heading (r : Root) (d : BucketPart) : p.SameHeading (p.bucketCharge r d) := by
  unfold Period.bucketCharge
  split
  · exact ⟨rfl, rfl, rfl, rfl⟩
  · split <;> exact ⟨rfl, rfl, rfl, rfl⟩

theorem Period.chargeStation_heading (t : Tick) (r : Station) : p.SameHeading (p.chargeStation t r) := by
  unfold Period.chargeStation Period.chargeCategory
  cases r.accrualStart with
  | none => exact .refl p
  | some a => cases r.category <;> exact ⟨rfl, rfl, rfl, rfl⟩

theorem Period.chargeStations_heading (t : Tick) (rs : List Station) (p : Period) : p.SameHeading (p.chargeStations t rs) := by
  induction rs generalizing p with
  | nil => exact .refl p
  | cons r rs ih => exact (p.chargeStation_heading t r).trans (ih _)

theorem Period.chargeStretch_heading (c : TimeClass) (n : Tick) : p.SameHeading (p.chargeStretch c n) := ⟨rfl, rfl, rfl, rfl⟩

theorem Period.chargeTo_heading (c : Condition) (lastChange t : Tick) : p.SameHeading (p.chargeTo c lastChange t) := by
  cases c with
  | notScheduled | unobserved | producing => exact p.chargeStretch_heading _ _
  | candidate c => exact ⟨rfl, rfl, rfl, rfl⟩
  | planned | changeover | overrun | stopped | restarting => exact (p.chargeStretch_heading _ _).trans (Period.bucketCharge_heading _ _ _)

theorem Period.chargeSlowTo_heading (o : Option Tick) (t : Tick) : p.SameHeading (p.chargeSlowTo o t) := by
  cases o <;> exact ⟨rfl, rfl, rfl, rfl⟩

theorem Period.boundSlow_heading : p.SameHeading p.boundSlow := ⟨rfl, rfl, rfl, rfl⟩

theorem Live.settled_heading (lv : Live) (t : Tick) (rs : List Station) : lv.period.SameHeading (lv.settled t rs) :=
  (Period.chargeStations_heading t rs lv.period).trans <| (Period.chargeTo_heading _ _ _ _).trans <|
    (Period.chargeSlowTo_heading _ _ _).trans (Period.boundSlow_heading _)

end

/-! ## Placing a record (R121) -/

section
variable {held rest : List ClosedRecord} {oldest r : ClosedRecord}

theorem placeIn_room (h : held.length < 3) : placeIn held r = held ++ [r] := by
  cases held with
  | nil => rfl
  | cons oldest rest => exact if_neg (by omega)

theorem placeIn_full (h : held = oldest :: rest) (hrest : 2 ≤ rest.length) :
    placeIn held r = rest ++ [{ r with displaced := some oldest.period.number }] := by
  subst h
  exact if_pos (by simpa using hrest)

theorem displacedBy_room (h : held.length < 3) : displacedBy held = none := by
  cases held with
  | nil => rfl
  | cons oldest rest => exact if_neg (by omega)

theorem displacedBy_full (h : held = oldest :: rest) (hrest : 2 ≤ rest.length) : displacedBy held = some oldest.period.number := by
  subst h
  exact if_pos (by simpa using hrest)

theorem displacedBy_isSome : (displacedBy held).isSome = true ↔ 3 ≤ held.length := by
  cases held with
  | nil => simp [displacedBy]
  | cons oldest rest => by_cases h : 2 ≤ rest.length <;> simp [displacedBy, h]

/-- The newest record is the one placed, and it carries what its placement displaced. -/
theorem placeIn_getLast? (h : r.displaced = none) (held : List ClosedRecord) :
    (placeIn held r).getLast? = some { r with displaced := displacedBy held } := by
  have hself : { r with displaced := none } = r := by rw [← h]
  cases held with
  | nil => exact congrArg some hself.symm
  | cons oldest rest =>
    by_cases hfull : 2 ≤ rest.length
    · rw [placeIn_full rfl hfull, displacedBy_full rfl hfull, List.getLast?_concat]
    · have hroom : (oldest :: rest).length < 3 := by simp only [List.length_cons]; omega
      rw [placeIn_room hroom, displacedBy_room hroom, List.getLast?_concat, hself]

end

/-! ## The stations of a line -/

/-- The stations of a line, where each record keeps its line and position. -/
theorem lineStations_map {f : Station → Station} (hline : ∀ r, (f r).line = r.line) (hposition : ∀ r, (f r).position = r.position)
    (stations : List Station) (l : Fin 8) : lineStations (stations.map f) l = (lineStations stations l).map f := by
  unfold lineStations
  rw [List.map_filterMap]
  refine congrArg (List.filterMap · _) (funext fun p => ?_)
  rw [List.find?_map]
  exact congrArg (Option.map f ·) (congrArg (List.find? · stations) (funext fun r => by simp [hline, hposition]))

/-! ## The state that a close leaves -/

/-- The record that a close places, before its displaced number is filled in. -/
def State.closingRecord (s : State) (l : Fin 8) (lv : Live) (why : CloseReason) : ClosedRecord :=
  lv.freeze (lv.settled s.runClock (lineStations s.stations l)) s.runClock s.plantTime why

/-- The close has settled and placed the record; the next period has not opened yet. -/
def State.closePlaced (s : State) (l : Fin 8) (lv : Live) (why : CloseReason) : State :=
  (s.restartAccruals l s.runClock).place l (s.closingRecord l lv why)

section
variable {s : State} {l : Fin 8} {ln : Line} {lv : Live} (why : CloseReason)

theorem State.closingRecord_number (s : State) (l : Fin 8) (lv : Live) :
    (s.closingRecord l lv why).period.number = lv.period.number := by
  obtain ⟨_, hnumber, _⟩ := lv.settled_heading s.runClock (lineStations s.stations l)
  exact hnumber

theorem State.closeLine_onLine (h : s.onLine l ln lv) : s.closeLine l why = (s.closePlaced l lv why).openNext l ln lv :=
  State.withLive_onLine h _

/-- A line that is not live is not closed. -/
theorem State.closeLine_notLive (h : s.live? l = none) : s.closeLine l why = s := by
  unfold State.closeLine State.withLive
  cases hline : s.line? l with
  | none => rfl
  | some ln =>
    rw [State.live?_of_line? hline] at h
    simp only [h]

theorem State.closePlaced_periodCounter (s : State) (l : Fin 8) (lv : Live) :
    (s.closePlaced l lv why).periodCounter = s.periodCounter := by
  rw [State.closePlaced, State.place_periodCounter, State.restartAccruals_periodCounter]

theorem State.closePlaced_store (s : State) (l : Fin 8) (lv : Live) :
    (s.closePlaced l lv why).store = s.store.set l (placeIn s.store[l] (s.closingRecord l lv why)) := by
  simp [State.closePlaced, State.place, State.latch]

/-- PERIOD_CLOSED is queued and PERIOD latched. -/
theorem State.closePlaced_announced (s : State) (l : Fin 8) (lv : Live) :
    (s.closePlaced l lv why).journal = ((s.notify (some l) (.periodClosed lv.period.number why (displacedBy s.store[l]))).latch .period).journal
    ∧ (s.closePlaced l lv why).attention
      = ((s.notify (some l) (.periodClosed lv.period.number why (displacedBy s.store[l]))).latch .period).attention := by
  have hnumber := State.closingRecord_number why s l lv
  have hreason : (s.closingRecord l lv why).reason = why := rfl
  simp only [State.closePlaced, State.place, hnumber, hreason, State.restartAccruals_store]
  have ⟨hjournal, hattention⟩ := State.notify_congr (s := s)
    (t := { s.restartAccruals l s.runClock with store := s.store.set l (placeIn s.store[l] (s.closingRecord l lv why)) }) (some l)
    (.periodClosed lv.period.number why (displacedBy s.store[l])) rfl rfl rfl rfl
  exact ⟨hjournal, congrArg (·.latch .period) hattention⟩

theorem State.closeLine_store (h : s.onLine l ln lv) :
    (s.closeLine l why).store = s.store.set l (placeIn s.store[l] (s.closingRecord l lv why)) := by
  rw [State.closeLine_onLine why h, State.openNext, State.setLine_store, State.takePeriodNumber_store, State.closePlaced_store]

theorem State.closeLine_store_same (h : s.onLine l ln lv) :
    (s.closeLine l why).store[l] = placeIn s.store[l] (s.closingRecord l lv why) := by
  rw [State.closeLine_store why h]
  exact Vector.getElem_set_self _

theorem State.closeLine_announced (h : s.onLine l ln lv) :
    (s.closeLine l why).journal = ((s.notify (some l) (.periodClosed lv.period.number why (displacedBy s.store[l]))).latch .period).journal
    ∧ (s.closeLine l why).attention
      = ((s.notify (some l) (.periodClosed lv.period.number why (displacedBy s.store[l]))).latch .period).attention := by
  rw [State.closeLine_onLine why h, State.openNext, State.setLine_journal, State.setLine_attention, State.takePeriodNumber_journal,
    State.takePeriodNumber_attention]
  exact State.closePlaced_announced why s l lv

theorem State.closeLine_stations (h : s.onLine l ln lv) : (s.closeLine l why).stations
    = s.stations.map fun r => if r.line = l then { r with accrualStart := some s.runClock } else r := by
  rw [State.closeLine_onLine why h, State.openNext, State.setLine_stations, State.takePeriodNumber_stations, State.closePlaced,
    State.place_stations]
  rfl

/-- The number that the close gives the next period. -/
def State.nextNumber (s : State) (l : Fin 8) (lv : Live) (why : CloseReason) : BitVec 32 := ((s.closePlaced l lv why).takePeriodNumber l).1

theorem State.closeLine_periodCounter (h : s.onLine l ln lv) : (s.closeLine l why).periodCounter[l] = s.nextNumber l lv why := by
  rw [State.closeLine_onLine why h]
  exact State.takePeriodNumber_counter _ l

theorem State.nextNumber_below (lv : Live) (h : s.periodCounter[l].toNat < 4294967295) :
    s.nextNumber l lv why = s.periodCounter[l] + 1#32 := by
  have hcounter := State.closePlaced_periodCounter why s l lv
  have hbelow : (s.closePlaced l lv why).periodCounter[l].toNat < 4294967295 := by rwa [hcounter]
  rw [State.nextNumber, State.takePeriodNumber_below _ hbelow, hcounter]

theorem State.closePlaced_lineStations (s : State) (l : Fin 8) (lv : Live) : lineStations (s.closePlaced l lv why).stations l
    = (lineStations s.stations l).map fun r => if r.line = l then { r with accrualStart := some s.runClock } else r := by
  rw [State.closePlaced, State.place_stations]
  exact lineStations_map (fun r => by split <;> rfl) (fun r => by split <;> rfl) s.stations l

theorem State.closePlaced_plantTime (s : State) (l : Fin 8) (lv : Live) : (s.closePlaced l lv why).plantTime = s.plantTime :=
  State.plantTime_congr (State.place_runClock _ _ _) (State.place_plant _ _ _)

/-- The period that a close opens, of the number given. -/
theorem State.closeLine_line? (h : s.onLine l ln lv) : (s.closeLine l why).line? l = some { ln with live := some (lv.reopen
    (Period.opened l (s.nextNumber l lv why) s.runClock s.plantTime ln.rehearsal lv.condition.candidate?.isSome
      lv.condition.stoppage?.isSome ln.currentProduct (lineStations s.stations l)) s.runClock) } := by
  have hentries : ((lineStations s.stations l).map fun r => if r.line = l then { r with accrualStart := some s.runClock } else r).map
      (fun r => StationEntry.fresh r.number) = (lineStations s.stations l).map fun r => StationEntry.fresh r.number := by
    rw [List.map_map]
    refine List.map_congr_left fun r _ => congrArg StationEntry.fresh ?_
    show (if r.line = l then _ else r : Station).number = r.number
    split <;> rfl
  have hclock : (s.closePlaced l lv why).runClock = s.runClock := State.place_runClock _ _ _
  rw [State.closeLine_onLine why h, State.openNext, State.line?_setLine_same, hclock, State.closePlaced_plantTime,
    State.closePlaced_lineStations]
  simp only [Period.opened, hentries]
  rfl

theorem State.closeLine_openNumber (h : s.onLine l ln lv) : (s.closeLine l why).openNumber l = s.nextNumber l lv why := by
  simp only [State.openNumber, State.live?, State.closeLine_line? why h]
  rfl

theorem State.closeLine_newestDisplaced (h : s.onLine l ln lv) : (s.closeLine l why).newestDisplaced l = displacedBy s.store[l] := by
  rw [State.newestDisplaced, State.closeLine_store_same why h, placeIn_getLast? rfl]
  rfl

theorem State.closeLine_latched (h : s.onLine l ln lv) : (s.closeLine l why).attention.flags.period = true := by
  rw [(State.closeLine_announced why h).2]
  rfl

theorem State.closeLine_lastStoppage (h : s.onLine l ln lv) : (s.closeLine l why).lastStoppage = s.lastStoppage := by
  rw [State.closeLine_onLine why h, State.openNext, State.setLine_lastStoppage, State.takePeriodNumber_lastStoppage, State.closePlaced,
    State.place_lastStoppage, State.restartAccruals_lastStoppage]

theorem State.closeLine_touch (s : State) (l : Fin 8) : Touch (.ofLine l) s (s.closeLine l why) := Touch.closeLine rfl why

end

/-! ## CLOSE_PERIOD and AGE_LIMIT -/

section
variable {p : List Byte} {s : State} {l : Fin 8} {ln : Line} {lv : Live}

theorem closePeriod_configuring (hc : s.partState = .configuring) : closePeriod p s = (s, .refuse .wrongState) := by
  rw [closePeriod, if_pos hc]

theorem closePeriod_badValue (hm : s.partState = .monitoring) (hl : 7 < u8 p 0) : closePeriod p s = (s, .badValue) := by
  rw [closePeriod, if_neg (ne_configuring_of_monitoring hm), lineNo_none hl]

theorem closePeriod_notFound (hm : s.partState = .monitoring) (hl : u8 p 0 = l.val) (hnone : s.line? l = none) :
    closePeriod p s = (s, .refuse .notFound) := by
  simp only [closePeriod, if_neg (ne_configuring_of_monitoring hm), lineNo_val hl, hnone]

theorem State.periodEmpty_onLine (h : s.onLine l ln lv) : s.periodEmpty l = (lv.period.start == s.runClock) := by
  rw [State.periodEmpty, h.live?_eq]

theorem State.openNumber_onLine (h : s.onLine l ln lv) : s.openNumber l = lv.period.number := by
  rw [State.openNumber, h.live?_eq]
  rfl

theorem closePeriod_empty (hm : s.partState = .monitoring) (hl : u8 p 0 = l.val) (h : s.onLine l ln lv)
    (hstart : lv.period.start = s.runClock) : closePeriod p s = (s, .refuse .empty) := by
  have hempty : s.periodEmpty l = true := by rw [State.periodEmpty_onLine h, hstart, beq_self_eq_true]
  obtain ⟨hline, _⟩ := h
  simp only [closePeriod, if_neg (ne_configuring_of_monitoring hm), lineNo_val hl, hline, hempty, if_true]

theorem closePeriod_ok (hm : s.partState = .monitoring) (hl : u8 p 0 = l.val) (h : s.onLine l ln lv)
    (hstart : lv.period.start ≠ s.runClock) : closePeriod p s = (s.closeLine l .request, .ok (closePayload lv.period.number
      (s.nextNumber l lv .request) (displacedBy s.store[l]))) := by
  have hempty : s.periodEmpty l = false := by rw [State.periodEmpty_onLine h]; exact beq_eq_false_iff_ne.mpr hstart
  have hline : s.line? l = some ln := h.1
  simp only [closePeriod, if_neg (ne_configuring_of_monitoring hm), lineNo_val hl, hline, hempty, Bool.false_eq_true, if_false,
    State.openNumber_onLine h, State.closeLine_openNumber .request h, State.closeLine_newestDisplaced .request h]

/-- An optional four-byte field: a presence byte and the field, or five zeros. -/
theorem encOpt_encTick (o : Option (BitVec 32)) :
    encOpt 4 encTick o = if o.isSome then [1#8] ++ encTick (o.getD 0#32) else [0#8, 0#8, 0#8, 0#8, 0#8] := by
  cases o <;> rfl

theorem State.takeAgeLimit_reached (h : s.onLine l ln lv) (hreached : reached lv.ageLimit s.runClock = true) :
    s.takeAgeLimit l = s.closeLine l .ageLimit := by
  rw [State.takeAgeLimit, State.withLive_onLine h, if_pos hreached]

theorem State.takeAgeLimit_early (h : s.onLine l ln lv) (hreached : reached lv.ageLimit s.runClock = false) : s.takeAgeLimit l = s := by
  rw [State.takeAgeLimit, State.withLive_onLine h, if_neg (Bool.eq_false_iff.mp hreached)]

/-- The close of a live line, for any reason: the first half of O45. -/
theorem State.closeLine_settlesPlacesAndOpens (why : CloseReason) (h : s.onLine l ln lv) :
    ∃ (t : State) (record : ClosedRecord) (lv' : Live) (n : BitVec 32), s.closeLine l why = t
      ∧ record = s.closingRecord l lv why
      ∧ record.period.slowTicks.toNat ≤ record.period.classes.producing.toNat
      ∧ (s.store[l].length < 3 → t.store[l] = s.store[l] ++ [record]
          ∧ ∀ u, u = (s.notify (some l) (.periodClosed lv.period.number why none)).latch .period →
            t.journal = u.journal ∧ t.attention = u.attention)
      ∧ (∀ oldest rest, s.store[l] = oldest :: rest → 2 ≤ rest.length →
          t.store[l] = rest ++ [{ record with displaced := some oldest.period.number }]
          ∧ ∀ u, u = (s.notify (some l) (.periodClosed lv.period.number why (some oldest.period.number))).latch .period →
            t.journal = u.journal ∧ t.attention = u.attention)
      ∧ t.attention.flags.period = true ∧ t.lastStoppage = s.lastStoppage
      ∧ t.periodCounter[l] = n ∧ (s.periodCounter[l].toNat < 4294967295 → n = s.periodCounter[l] + 1#32)
      ∧ t.stations = s.stations.map (fun r => if r.line = l then { r with accrualStart := some s.runClock } else r)
      ∧ t.line? l = some { ln with live := some lv' }
      ∧ lv' = lv.reopen lv'.period s.runClock
      ∧ lv'.period = Period.opened l n s.runClock s.plantTime ln.rehearsal lv.condition.candidate?.isSome
          lv.condition.stoppage?.isSome ln.currentProduct (lineStations s.stations l)
      ∧ s.SameBeside t (· = l) ∧ t.links = s.links ∧ t.triggers = s.triggers ∧ t.plant = s.plant ∧ t.host = s.host := by
  have htouch := State.closeLine_touch why s l
  refine ⟨_, _, _, _, rfl, rfl, Period.boundSlow_le _, fun hroom => ⟨?_, ?_⟩, fun oldest rest heq hrest => ⟨?_, ?_⟩,
    State.closeLine_latched why h, State.closeLine_lastStoppage why h, State.closeLine_periodCounter why h,
    State.nextNumber_below why lv, State.closeLine_stations why h, State.closeLine_line? why h, rfl, rfl, htouch.sameBeside,
    htouch.links_same fun _ => not_false, htouch.triggers_same fun _ => not_false, htouch.frame.plant, htouch.frame.host⟩
  · rw [State.closeLine_store_same why h, placeIn_room hroom]
  · rintro u rfl
    rw [← displacedBy_room hroom]
    exact State.closeLine_announced why h
  · rw [State.closeLine_store_same why h, placeIn_full heq hrest]
  · rintro u rfl
    rw [← displacedBy_full heq hrest]
    exact State.closeLine_announced why h

end

/-- Settles O45: the refusals of CLOSE_PERIOD; then a close of a live line as `State.closeLine_settlesPlacesAndOpens` has it, AGE_LIMIT at and
before its instant, and the two outcomes of CLOSE_PERIOD. -/
theorem closeSettlesPlacesAndOpens : Obligations.CloseSettlesPlacesAndOpens := by
  refine ⟨fun s p hready hlen => ⟨fun hc => ?_, fun hm hl => ?_, fun hm l hl hnone => ?_⟩, fun s l ln lv why h =>
    ⟨State.closeLine_settlesPlacesAndOpens why h, fun hreached => congrArg _ (State.takeAgeLimit_reached h hreached),
      fun hearly => congrArg _ (State.takeAgeLimit_early h hearly), fun p hready hlen hl => ⟨fun hm hstart => ?_, fun hm hstart => ?_⟩⟩⟩
  · exact exec_of_requestBlock rfl hready (by simp [hlen]) (closePeriod_configuring hc)
  · exact exec_of_requestBlock rfl hready (by simp [hlen]) (closePeriod_badValue hm hl)
  · exact exec_of_requestBlock rfl hready (by simp [hlen]) (closePeriod_notFound hm hl hnone)
  · exact exec_of_requestBlock rfl hready (by simp [hlen]) (closePeriod_empty hm hl h hstart)
  · refine ⟨s.nextNumber l lv .request, (displacedBy s.store[l]).getD 0#32, (displacedBy s.store[l]).isSome, ?_,
      (State.closeLine_periodCounter .request h).symm, displacedBy_isSome, fun oldest rest heq hpresent => ?_⟩
    · rw [← encOpt_encTick]
      exact exec_of_requestBlock rfl hready (by simp [hlen]) (closePeriod_ok hm hl h hstart)
    · have hrest : 2 ≤ rest.length := by simpa [heq] using displacedBy_isSome.mp hpresent
      rw [displacedBy_full heq hrest, Option.getD_some]

end Sys2Proof.Machine
end

section
/-! The Period Store's requests and READ_OPEN (R122–R128): the answer of each block case by case, and the two obligations. -/

namespace Sys2Proof.Machine

/-! ## Finding a record by its number -/

/-- The lookup key of a request is the number as its four bytes have it. -/
theorem number_eq_ofNat_u32 {n : BitVec 32} {p : List Byte} {i : Nat} : n = BitVec.ofNat 32 (u32 p i) ↔ n.toNat = u32 p i := by
  have hlt := u32_lt p i
  rw [← BitVec.toNat_inj, BitVec.toNat_ofNat, Nat.mod_eq_of_lt hlt]

section
variable {s : State} {l : Fin 8} {p : List Byte} {i : Nat} {before after : List ClosedRecord} {r : ClosedRecord}

theorem State.stored_none (h : ∀ r ∈ s.store[l], r.period.number.toNat ≠ u32 p i) : s.stored l (BitVec.ofNat 32 (u32 p i)) = none := by
  refine List.find?_eq_none.mpr fun r hr => ?_
  rw [beq_iff_eq, number_eq_ofNat_u32]
  exact h r hr

theorem State.stored_some (hstore : s.store[l] = before ++ r :: after) (hbefore : ∀ q ∈ before, q.period.number.toNat ≠ u32 p i)
    (hr : r.period.number.toNat = u32 p i) : s.stored l (BitVec.ofNat 32 (u32 p i)) = some r := by
  rw [State.stored, hstore, List.find?_append, List.find?_eq_none.mpr, Option.none_or]
  · exact List.find?_cons_of_pos (beq_iff_eq.mpr (number_eq_ofNat_u32.mpr hr))
  · intro q hq
    rw [beq_iff_eq, number_eq_ofNat_u32]
    exact hbefore q hq

theorem eraseP_stored (hbefore : ∀ q ∈ before, q.period.number.toNat ≠ u32 p i) (hr : r.period.number.toNat = u32 p i) :
    (before ++ r :: after).eraseP (fun q => q.period.number == BitVec.ofNat 32 (u32 p i)) = before ++ after := by
  rw [List.eraseP_append_right]
  · exact congrArg (before ++ ·) (List.eraseP_cons_of_pos (beq_iff_eq.mpr (number_eq_ofNat_u32.mpr hr)))
  · intro q hq
    rw [beq_iff_eq, number_eq_ofNat_u32]
    exact hbefore q hq

end

/-- A piece of a record, after its count byte. -/
theorem encList_bytes (bs : List Byte) : encList (fun b => [b]) bs = enc1 bs.length ++ bs := by
  rw [encList, List.flatMap_singleton']

/-! ## LIST_CLOSED, READ_CLOSED and RELEASE_CLOSED -/

section
variable {p : List Byte} {s : State} {l : Fin 8} {before after : List ClosedRecord} {r : ClosedRecord}

theorem listClosed_badValue (hl : 7 < u8 p 0) : listClosed p s = (s, .badValue) := by rw [listClosed, lineNo_none hl]

theorem listClosed_ok (hl : u8 p 0 = l.val) : listClosed p s = (s, .ok (enc1 s.store[l].length ++ s.store[l].flatMap fun r =>
    encTick r.period.number ++ enc1 r.reason.code ++ encFlag r.period.rehearsal ++ encFlag r.displaced.isSome ++ enc2 r.length)) := by
  rw [listClosed, lineNo_val hl]
  rfl

theorem readClosed_badLine (hl : 7 < u8 p 0) : readClosed p s = (s, .badValue) := by rw [readClosed, lineNo_none hl]

theorem readClosed_badLength (hl : u8 p 0 = l.val) (hlength : u8 p 7 < 1 ∨ 240 < u8 p 7) : readClosed p s = (s, .badValue) := by
  simp only [readClosed, lineNo_val hl, if_pos hlength]

theorem readClosed_notFound (hl : u8 p 0 = l.val) (hlow : 1 ≤ u8 p 7) (hhigh : u8 p 7 ≤ 240)
    (hnone : ∀ r ∈ s.store[l], r.period.number.toNat ≠ u32 p 1) : readClosed p s = (s, .refuse .notFound) := by
  have hlength : ¬(u8 p 7 < 1 ∨ 240 < u8 p 7) := by omega
  simp only [readClosed, lineNo_val hl, if_neg hlength, State.stored_none hnone]

theorem readClosed_found (hl : u8 p 0 = l.val) (hlow : 1 ≤ u8 p 7) (hhigh : u8 p 7 ≤ 240) (hstore : s.store[l] = before ++ r :: after)
    (hbefore : ∀ q ∈ before, q.period.number.toNat ≠ u32 p 1) (hr : r.period.number.toNat = u32 p 1) :
    readClosed p s = if r.length ≤ u16 p 5 then (s, .badValue) else (s, .ok (encTick r.period.number ++ enc2 r.length ++ enc2 (u16 p 5)
      ++ enc1 ((r.bytes.drop (u16 p 5)).take (u8 p 7)).length ++ (r.bytes.drop (u16 p 5)).take (u8 p 7))) := by
  have hlength : ¬(u8 p 7 < 1 ∨ 240 < u8 p 7) := by omega
  simp only [readClosed, lineNo_val hl, if_neg hlength, State.stored_some hstore hbefore hr, ClosedRecord.piece, encList_bytes,
    List.append_assoc]

theorem releaseClosed_badValue (hl : 7 < u8 p 0) : releaseClosed p s = (s, .badValue) := by rw [releaseClosed, lineNo_none hl]

theorem releaseClosed_notFound (hl : u8 p 0 = l.val) (hnone : ∀ r ∈ s.store[l], r.period.number.toNat ≠ u32 p 1) :
    releaseClosed p s = (s, .refuse .notFound) := by
  simp only [releaseClosed, lineNo_val hl, State.stored_none hnone]

theorem releaseClosed_ok (hl : u8 p 0 = l.val) (hstore : s.store[l] = before ++ r :: after)
    (hbefore : ∀ q ∈ before, q.period.number.toNat ≠ u32 p 1) (hr : r.period.number.toNat = u32 p 1) :
    releaseClosed p s = ({ s with store := s.store.set l (before ++ after) }, .ok) := by
  simp only [releaseClosed, lineNo_val hl, State.stored_some hstore hbefore hr]
  rw [hstore, eraseP_stored hbefore hr]

end

/-- Settles O46: each clause is a case of its block's answer, the record found by splitting the line's list at it. -/
theorem periodStoreIsListedReadAndReleased : Obligations.PeriodStoreIsListedReadAndReleased := by
  intro s p hready
  refine ⟨fun hl => ⟨fun hlen => ?_, fun hlen => ?_, fun hlen => ?_⟩, fun l hl => ⟨fun hlen => ?_, fun hlen => ⟨fun hbad => ?_,
    fun hlow hhigh => ⟨fun hnone => ?_, fun before r after hstore hbefore hr => ?_⟩⟩, fun hlen => ⟨fun hnone => ?_,
    fun before r after hstore hbefore hr => ?_⟩⟩⟩
  · exact exec_of_requestBlock rfl hready (by simp [hlen]) (listClosed_badValue hl)
  · exact exec_of_requestBlock rfl hready (by simp [hlen]) (readClosed_badLine hl)
  · exact exec_of_requestBlock rfl hready (by simp [hlen]) (releaseClosed_badValue hl)
  · exact exec_of_requestBlock rfl hready (by simp [hlen]) (listClosed_ok hl)
  · exact exec_of_requestBlock rfl hready (by simp [hlen]) (readClosed_badLength hl hbad)
  · exact exec_of_requestBlock rfl hready (by simp [hlen]) (readClosed_notFound hl hlow hhigh hnone)
  · have hfound := readClosed_found hl hlow hhigh hstore hbefore hr
    exact ⟨fun hover => exec_of_requestBlock rfl hready (by simp [hlen]) (hfound.trans (if_pos hover)),
      fun hwithin => exec_of_requestBlock rfl hready (by simp [hlen]) (hfound.trans (if_neg (Nat.not_le.mpr hwithin)))⟩
  · exact exec_of_requestBlock rfl hready (by simp [hlen]) (releaseClosed_notFound hl hnone)
  · exact exec_of_requestBlock rfl hready (by simp [hlen]) (releaseClosed_ok hl hstore hbefore hr)

/-! ## READ_OPEN (R126–R128) -/

section
variable {p : List Byte} {s : State} {l : Fin 8} {r : ClosedRecord}

theorem readOpen_badValue (h : 7 < u8 p 0 ∨ u8 p 3 < 1 ∨ 240 < u8 p 3) : readOpen p s = (s, .badValue) := by
  rcases h with hl | hlength
  · rw [readOpen, lineNo_none hl]
  · unfold readOpen
    cases lineNo (u8 p 0) with
    | none => rfl
    | some l => exact if_pos hlength

/-- The length is in range. -/
theorem readOpen_length (hlow : 1 ≤ u8 p 3) (hhigh : u8 p 3 ≤ 240) : ¬(u8 p 3 < 1 ∨ 240 < u8 p 3) := by omega

theorem readOpen_wrongState (hl : u8 p 0 = l.val) (hlow : 1 ≤ u8 p 3) (hhigh : u8 p 3 ≤ 240) (hzero : u16 p 1 = 0)
    (hc : s.partState = .configuring) : readOpen p s = (s, .refuse .wrongState) := by
  simp only [readOpen, lineNo_val hl, if_neg (readOpen_length hlow hhigh), if_pos hzero, if_pos hc]

theorem readOpen_notLive (hl : u8 p 0 = l.val) (hlow : 1 ≤ u8 p 3) (hhigh : u8 p 3 ≤ 240) (hzero : u16 p 1 = 0)
    (hm : s.partState = .monitoring) (hnone : s.live? l = none) : readOpen p s = (s, .refuse .notFound) := by
  simp only [readOpen, lineNo_val hl, if_neg (readOpen_length hlow hhigh), if_pos hzero, if_neg (ne_configuring_of_monitoring hm), hnone]

theorem readOpen_builds (hl : u8 p 0 = l.val) (hlow : 1 ≤ u8 p 3) (hhigh : u8 p 3 ≤ 240) (hzero : u16 p 1 = 0)
    (hm : s.partState = .monitoring) {lv : Live} (hlive : s.live? l = some lv) (hr : s.snapshotOf l lv = r) :
    readOpen p s = ({ s with snapshot := some r }, .ok (snapshotPayload r 0 (u8 p 3))) := by
  simp only [readOpen, lineNo_val hl, if_neg (readOpen_length hlow hhigh), if_pos hzero, if_neg (ne_configuring_of_monitoring hm), hlive, hr]

theorem readOpen_noBuffer (hl : u8 p 0 = l.val) (hlow : 1 ≤ u8 p 3) (hhigh : u8 p 3 ≤ 240) (hpos : 0 < u16 p 1)
    (hnone : s.snapshot = none) : readOpen p s = (s, .refuse .notFound) := by
  simp only [readOpen, lineNo_val hl, if_neg (readOpen_length hlow hhigh), if_neg (Nat.ne_of_gt hpos), hnone]

theorem readOpen_otherLine (hl : u8 p 0 = l.val) (hlow : 1 ≤ u8 p 3) (hhigh : u8 p 3 ≤ 240) (hpos : 0 < u16 p 1)
    (hr : s.snapshot = some r) (hline : r.period.line ≠ l) : readOpen p s = (s, .refuse .notFound) := by
  simp only [readOpen, lineNo_val hl, if_neg (readOpen_length hlow hhigh), if_neg (Nat.ne_of_gt hpos), hr, if_neg hline]

theorem readOpen_reads (hl : u8 p 0 = l.val) (hlow : 1 ≤ u8 p 3) (hhigh : u8 p 3 ≤ 240) (hpos : 0 < u16 p 1)
    (hr : s.snapshot = some r) (hline : r.period.line = l) : readOpen p s =
      if r.length ≤ u16 p 1 then (s, .badValue) else (s, .ok (snapshotPayload r (u16 p 1) (u8 p 3))) := by
  simp only [readOpen, lineNo_val hl, if_neg (readOpen_length hlow hhigh), if_neg (Nat.ne_of_gt hpos), hr, if_pos hline]

theorem snapshotPayload_eq (r : ClosedRecord) (offset length : Nat) : snapshotPayload r offset length =
    enc1 r.period.line.val ++ encTick r.period.number ++ encTick r.closeTick ++ enc2 r.length ++ enc2 offset
      ++ enc1 ((r.bytes.drop offset).take length).length ++ (r.bytes.drop offset).take length := by
  simp only [snapshotPayload, ClosedRecord.piece, encList_bytes, List.append_assoc]

end

/-- Settles O47: the range check; then the snapshot is built, or the buffer is read, each with its refusals in order. -/
theorem readOpenBuildsAndReadsTheSnapshot : Obligations.ReadOpenBuildsAndReadsTheSnapshot := by
  intro s p hready hlen
  refine ⟨fun hbad => exec_of_requestBlock rfl hready (by simp [hlen]) (readOpen_badValue hbad), fun l hl hlow hhigh => ?_⟩
  refine ⟨fun hzero => ⟨fun hc => ?_, fun hm hnone => ?_, fun hm ln lv r h hr => ?_⟩,
    fun hpos => ⟨fun hother => ?_, fun r hr hline => ⟨fun hover => ?_, fun hwithin => ?_⟩⟩⟩
  · exact exec_of_requestBlock rfl hready (by simp [hlen]) (readOpen_wrongState hl hlow hhigh hzero hc)
  · have hlive : s.live? l = none := by rw [State.live?, hnone, Option.bind_none]
    exact exec_of_requestBlock rfl hready (by simp [hlen]) (readOpen_notLive hl hlow hhigh hzero hm hlive)
  · have htick : s.runClock = r.closeTick := by rw [hr]
    have hbuilt := readOpen_builds hl hlow hhigh hzero hm h.live?_eq hr.symm
    rw [snapshotPayload_eq, List.drop_zero, ← htick] at hbuilt
    exact exec_of_requestBlock rfl hready (by simp [hlen]) hbuilt
  · rcases hother with hnone | ⟨r, hr, hline⟩
    · exact exec_of_requestBlock rfl hready (by simp [hlen]) (readOpen_noBuffer hl hlow hhigh hpos hnone)
    · exact exec_of_requestBlock rfl hready (by simp [hlen]) (readOpen_otherLine hl hlow hhigh hpos hr hline)
  · exact exec_of_requestBlock rfl hready (by simp [hlen]) ((readOpen_reads hl hlow hhigh hpos hr hline).trans (if_pos hover))
  · have hread := (readOpen_reads hl hlow hhigh hpos hr hline).trans (if_neg (Nat.not_le.mpr hwithin))
    rw [snapshotPayload_eq, hline] at hread
    exact exec_of_requestBlock rfl hready (by simp [hlen]) hread

end Sys2Proof.Machine
end

section
/-! LINE_RESET and SET_REHEARSE (R161, R162, R188): what the resets after a close leave, the answers of the two blocks, and their obligation. -/

namespace Sys2Proof.Machine

/-! ## The resets after a close (R130, R162, R188) -/

theorem Condition.stoppage?_carry (c : Condition) (t : Tick) :
    (c.carry t).stoppage? = c.stoppage?.map fun st => { st with segmentStart := t, carriedIn := true } := by
  cases c <;> rfl

section
variable {s : State} {l : Fin 8} {ln : Line} {lv : Live} {st : Stoppage}

theorem State.abandon_some (h : s.onLine l ln lv) (hst : lv.condition.stoppage? = some st) :
    s.abandon l = s.notify (some l) (st.closedNotice s.runClock .abandoned) := by
  rw [State.abandon, State.withLive_onLine h]
  simp only [hst]

theorem State.abandon_none (h : s.onLine l ln lv) (hst : lv.condition.stoppage? = none) : s.abandon l = s := by
  rw [State.abandon, State.withLive_onLine h]
  simp only [hst]

/-- A carried stoppage is abandoned with its notice; nothing but the Journal and the Attention Unit changes. -/
theorem State.abandon_frame (s : State) (l : Fin 8) :
    s.abandon l = { s with journal := (s.abandon l).journal, attention := (s.abandon l).attention } := by
  unfold State.abandon State.withLive
  split
  · rfl
  · split
    · rfl
    · dsimp only
      split
      · exact State.notify_touches _ _ _
      · rfl

theorem State.abandon_onLine (h : s.onLine l ln lv) : (s.abandon l).onLine l ln lv := by
  cases hst : lv.condition.stoppage? with
  | none => rwa [State.abandon_none h hst]
  | some st =>
    rw [State.abandon_some h hst]
    exact State.notify_onLine h _ _

/-- The live state that the resets leave: the initial rate state, and UNOBSERVED on a SCHEDULED line. -/
def Live.resetBy (lv : Live) (m : Mode) : Live :=
  { lv with condition := if m = .scheduled then .unobserved else lv.condition, rate := RateState.initial }

theorem Line.conditionByMode_eq (ln : Line) {t : Tick} (hlast : lv.lastChange = t) :
    ({ ln with live := some { lv with rate := RateState.initial } } : Line).conditionByMode t
      = { ln with live := some (lv.resetBy ln.mode) } := by
  subst hlast
  obtain ⟨defn, rehearsal, mode, product, live⟩ := ln
  cases mode <;> simp [Line.conditionByMode, Live.resetBy, Live.become]

theorem State.resetLine_onLine (h : s.onLine l ln lv) (hlast : lv.lastChange = s.runClock) : s.resetLine l =
    ({ s.abandon l with stations := s.stations.map fun r => if r.line = l then r.restarted s.runClock else r } : State).setLine l
      (some { ln with live := some (lv.resetBy ln.mode) }) := by
  have hstations : (s.abandon l).stations = s.stations := (congrArg State.stations (State.abandon_frame s l)).trans rfl
  have hon : ((s.abandon l).updStationsOf l (·.restarted s.runClock)).onLine l ln lv := State.abandon_onLine h
  rw [State.resetLine, State.updLive_onLine hon, State.updLine_some (State.line?_setLine_same _ _ _), State.setLine_setLine,
    Line.conditionByMode_eq ln hlast]
  simp only [State.updStationsOf, hstations]

end

/-! ## A close and its resets -/

section
variable {s : State} {l : Fin 8} {ln : Line} {lv : Live}

theorem Station.restarted_after_accrual (r : Station) (l : Fin 8) (t : Tick) :
    (if (if r.line = l then { r with accrualStart := some t } else r : Station).line = l
      then (if r.line = l then { r with accrualStart := some t } else r : Station).restarted t
      else (if r.line = l then { r with accrualStart := some t } else r : Station)) = if r.line = l then r.restarted t else r := by
  by_cases h : r.line = l <;> simp [h, Station.restarted]

/-- The state after a close and its resets, by the state `u` that the close leaves. -/
theorem State.closeReset_onLine (h : s.onLine l ln lv) (why : CloseReason) :
    ∃ lv', (s.closeLine l why).line? l = some { ln with live := some lv' } ∧ lv'.condition = lv.condition.carry s.runClock
      ∧ (s.closeLine l why).resetLine l =
        ({ (s.closeLine l why).abandon l with
            stations := s.stations.map fun r => if r.line = l then r.restarted s.runClock else r } : State).setLine l
          (some { ln with live := some (lv'.resetBy ln.mode) }) := by
  have hline := State.closeLine_line? why h
  have hclock : (s.closeLine l why).runClock = s.runClock := (s.closeLine_touch why l).frame.runClock
  refine ⟨_, hline, rfl, ?_⟩
  rw [State.resetLine_onLine ⟨hline, rfl⟩ hclock.symm, State.closeLine_stations why h, hclock, List.map_map]
  simp only [Function.comp_def, Station.restarted_after_accrual]

theorem State.resetLine_openNumber (h : s.onLine l ln lv) (hlast : lv.lastChange = s.runClock) :
    (s.resetLine l).openNumber l = lv.period.number := by
  rw [State.resetLine_onLine h hlast, State.openNumber, State.live?_setLine_same]
  rfl

theorem State.closeReset_openNumber (h : s.onLine l ln lv) (why : CloseReason) :
    ((s.closeLine l why).resetLine l).openNumber l = (s.closeLine l why).periodCounter[l] := by
  have hclock : (s.closeLine l why).runClock = s.runClock := (s.closeLine_touch why l).frame.runClock
  rw [State.resetLine_openNumber ⟨State.closeLine_line? why h, rfl⟩ hclock.symm, State.closeLine_periodCounter why h]
  rfl

theorem State.closeReset_newestDisplaced (h : s.onLine l ln lv) (why : CloseReason) :
    ((s.closeLine l why).resetLine l).newestDisplaced l = displacedBy s.store[l] := by
  obtain ⟨lv', _, _, hreset⟩ := State.closeReset_onLine h why
  have hstore : ((s.closeLine l why).resetLine l).store = (s.closeLine l why).store := by
    rw [hreset]
    exact (congrArg State.store (State.abandon_frame (s.closeLine l why) l)).trans rfl
  rw [State.newestDisplaced, hstore]
  exact State.closeLine_newestDisplaced why h

/-- What becomes of a carried stoppage, in the terms of the record before the close. -/
theorem State.closeReset_abandon (h : s.onLine l ln lv) (why : CloseReason) : (s.closeLine l why).abandon l =
    (match lv.condition.stoppage? with
      | some st => (s.closeLine l why).notify (some l) (st.closedNotice s.runClock .abandoned)
      | none => s.closeLine l why) := by
  have hclock : (s.closeLine l why).runClock = s.runClock := (s.closeLine_touch why l).frame.runClock
  have hon : (s.closeLine l why).onLine l _ _ := ⟨State.closeLine_line? why h, rfl⟩
  have hcarry := Condition.stoppage?_carry lv.condition s.runClock
  cases hst : lv.condition.stoppage? with
  | none =>
    rw [hst] at hcarry
    exact State.abandon_none hon hcarry
  | some st =>
    rw [hst] at hcarry
    rw [State.abandon_some hon hcarry, hclock]
    rfl

end

/-! ## The two blocks -/

section
variable {p : List Byte} {s : State} {l : Fin 8} {ln : Line} {lv : Live}

theorem lineResetReq_configuring (hc : s.partState = .configuring) : lineResetReq p s = (s, .refuse .wrongState) := by
  simp only [lineResetReq, hc]

theorem lineResetReq_badValue (hm : s.partState = .monitoring) (hl : 7 < u8 p 0) : lineResetReq p s = (s, .badValue) := by
  simp only [lineResetReq, hm, lineNo_none hl]

theorem lineResetReq_notFound (hm : s.partState = .monitoring) (hl : u8 p 0 = l.val) (hnone : s.line? l = none) :
    lineResetReq p s = (s, .refuse .notFound) := by
  simp only [lineResetReq, hm, lineNo_val hl, hnone]

theorem lineResetReq_ok (hm : s.partState = .monitoring) (hl : u8 p 0 = l.val) (h : s.onLine l ln lv) : lineResetReq p s =
    ((s.closeLine l .lineReset).resetLine l, .ok (closePayload lv.period.number (s.closeLine l .lineReset).periodCounter[l]
      (displacedBy s.store[l]))) := by
  have hline : s.line? l = some ln := h.1
  simp only [lineResetReq, hm, lineNo_val hl, hline, State.openNumber_onLine h, State.closeReset_openNumber h,
    State.closeReset_newestDisplaced h]

theorem flagOf_toNat {n : Nat} {on : Bool} (h : n = if on then 1 else 0) : flagOf n = some on := by
  cases on <;> subst h <;> rfl

theorem flagOf_none {n : Nat} (h : 1 < n) : flagOf n = none := by
  match n, h with
  | n + 2, _ => rfl

theorem setRehearse_configuring (hc : s.partState = .configuring) : setRehearse p s = (s, .refuse .wrongState) := by
  simp only [setRehearse, hc]

theorem setRehearse_badValue (hm : s.partState = .monitoring) (hbad : 7 < u8 p 0 ∨ 1 < u8 p 1) : setRehearse p s = (s, .badValue) := by
  rcases hbad with hl | hflag
  · simp only [setRehearse, hm, lineNo_none hl]
  · cases hl : lineNo (u8 p 0) <;> simp only [setRehearse, hm, hl, flagOf_none hflag]

theorem setRehearse_notFound {on : Bool} (hm : s.partState = .monitoring) (hflag : u8 p 1 = if on then 1 else 0) (hl : u8 p 0 = l.val)
    (hnone : s.line? l = none) : setRehearse p s = (s, .refuse .notFound) := by
  simp only [setRehearse, hm, flagOf_toNat hflag, lineNo_val hl, hnone]

theorem setRehearse_same (hm : s.partState = .monitoring) (hflag : u8 p 1 = if ln.rehearsal then 1 else 0) (hl : u8 p 0 = l.val)
    (h : s.onLine l ln lv) : setRehearse p s = (s, .ok (closePayload lv.period.number lv.period.number none)) := by
  have hline : s.line? l = some ln := h.1
  simp only [setRehearse, hm, flagOf_toNat hflag, lineNo_val hl, hline, if_true, State.openNumber_onLine h]

/-- The line with its new rehearsal setting, before the close. -/
theorem State.rehearsalSet_onLine (h : s.onLine l ln lv) (on : Bool) :
    (s.setLine l (some { ln with rehearsal := on })).onLine l { ln with rehearsal := on } lv :=
  ⟨State.line?_setLine_same _ _ _, h.2⟩

theorem setRehearse_changes {on : Bool} (hm : s.partState = .monitoring) (hflag : u8 p 1 = if on then 1 else 0) (hl : u8 p 0 = l.val)
    (h : s.onLine l ln lv) (hon : ln.rehearsal ≠ on) : setRehearse p s =
      (((s.setLine l (some { ln with rehearsal := on })).closeLine l (rehearseReason on)).resetLine l,
        .ok (closePayload lv.period.number
          ((s.setLine l (some { ln with rehearsal := on })).closeLine l (rehearseReason on)).periodCounter[l] (displacedBy s.store[l]))) := by
  have hline : s.line? l = some ln := h.1
  have hset := State.rehearsalSet_onLine h on
  have hchange : s.changeRehearsal l on
      = ((s.setLine l (some { ln with rehearsal := on })).closeLine l (rehearseReason on)).resetLine l := by
    rw [State.changeRehearsal, State.updLine_some hline]
  simp only [setRehearse, hm, flagOf_toNat hflag, lineNo_val hl, hline, if_neg hon, hchange, State.openNumber_onLine h,
    State.closeReset_openNumber hset, State.closeReset_newestDisplaced hset, State.setLine_store]

end

/-- What both requests leave and answer, from the state `s₀` in which the period is closed: `s` itself, or `s` with the new setting. -/
theorem State.closeReset_answered {s s₀ u v : State} {l : Fin 8} {ln : Line} {lv : Live} (h : s₀.onLine l ln lv)
    (hclock : s₀.runClock = s.runClock) (hstations : s₀.stations = s.stations) (hstore : s₀.store = s.store) (why : CloseReason)
    (hu : u = s₀.closeLine l why)
    (hv : v = match lv.condition.stoppage? with
      | some st => u.notify (some l) (.stopClosed st.number s.runClock (if st.capped then 2147483647#32 else s.runClock - st.start)
          .abandoned st.segments)
      | none => u) :
    ∃ (lv' : Live) (opened : BitVec 32) (displaced : Option (BitVec 32)), u.line? l = some { ln with live := some lv' }
      ∧ opened = u.periodCounter[l] ∧ (s.store[l].length < 3 → displaced = none)
      ∧ (∀ oldest rest, s.store[l] = oldest :: rest → 2 ≤ rest.length → displaced = some oldest.period.number)
      ∧ displaced = displacedBy s₀.store[l]
      ∧ u.resetLine l = ({ v with stations := s.stations.map fun r => if r.line = l then r.restarted s.runClock else r } : State).setLine l
          (some { ln with live := some (lv'.resetBy ln.mode) }) := by
  subst hu
  obtain ⟨lv', hline, _, hreset⟩ := State.closeReset_onLine h why
  have habandon := State.closeReset_abandon h why
  rw [hclock] at habandon
  have hv' : v = (s₀.closeLine l why).abandon l := hv.trans habandon.symm
  refine ⟨lv', _, displacedBy s₀.store[l], hline, rfl, fun hroom => ?_, fun oldest rest heq hrest => ?_, rfl, ?_⟩
  · exact displacedBy_room (by rwa [hstore])
  · exact displacedBy_full (by rwa [hstore]) hrest
  · rw [hreset, hv', hclock, hstations]

/-- Settles O48: a setting that is held changes nothing; LINE_RESET and a change both close, abandon and reset, LINE_RESET under the setting
held; then the refusals of each block in order. -/
theorem lineResetAndRehearsalCloseThenReset : Obligations.LineResetAndRehearsalCloseThenReset := by
  refine ⟨fun s p l ln lv hready hm hl h => ⟨fun on hlen hflag hheld => ?_, ?_⟩, fun s p hready => ⟨fun hlen => ⟨fun hc => ?_,
    fun hm hl => ?_, fun hm l hl hnone => ?_⟩, fun hlen => ⟨fun hc => ?_, fun hm hbad => ?_, fun hm hflag l hl hnone => ?_⟩⟩⟩
  · exact exec_of_requestBlock rfl hready (by simp [hlen]) (setRehearse_same hm (hheld ▸ hflag) hl h)
  · intro i kind u v ln' hi hv
    rcases hi with ⟨rfl, hlen, rfl, rfl, hu⟩ | ⟨on, rfl, hlen, hflag, hon, rfl, rfl, hu⟩
    · obtain ⟨lv', opened, displaced, hline, hopened, hroom, hfull, hdisplaced, hreset⟩ :=
        State.closeReset_answered (s := s) h rfl rfl rfl .lineReset hu hv
      have hblock := lineResetReq_ok hm hl h
      rw [← hu, hreset, ← hopened, ← hdisplaced] at hblock
      refine ⟨lv', opened, displaced, hline, hopened, hroom, hfull, ?_⟩
      refine (exec_of_requestBlock (i := .lineReset p) rfl hready (by simp [hlen]) hblock).trans ?_
      cases displaced <;> rfl
    · obtain ⟨lv', opened, displaced, hline, hopened, hroom, hfull, hdisplaced, hreset⟩ :=
        State.closeReset_answered (s := s) (State.rehearsalSet_onLine h on) rfl rfl rfl (rehearseReason on) hu hv
      have hblock := setRehearse_changes hm hflag hl h hon
      have hu' : (s.setLine l (some { ln with rehearsal := on })).closeLine l (rehearseReason on) = u := hu.symm
      have hdisplaced' : displacedBy s.store[l] = displaced := hdisplaced.symm
      rw [hu', hreset, ← hopened, hdisplaced'] at hblock
      refine ⟨lv', opened, displaced, hline, hopened, hroom, hfull, ?_⟩
      refine (exec_of_requestBlock (i := .setRehearse p) rfl hready (by simp [hlen]) hblock).trans ?_
      cases displaced <;> rfl
  · exact exec_of_requestBlock rfl hready (by simp [hlen]) (lineResetReq_configuring hc)
  · exact exec_of_requestBlock rfl hready (by simp [hlen]) (lineResetReq_badValue hm hl)
  · exact exec_of_requestBlock rfl hready (by simp [hlen]) (lineResetReq_notFound hm hl hnone)
  · exact exec_of_requestBlock rfl hready (by simp [hlen]) (setRehearse_configuring hc)
  · exact exec_of_requestBlock rfl hready (by simp [hlen]) (setRehearse_badValue hm hbad)
  · have hon : u8 p 1 = if decide (u8 p 1 = 1) then 1 else 0 := by
      rcases Nat.le_one_iff_eq_zero_or_eq_one.mp hflag with h | h <;> rw [h] <;> rfl
    exact exec_of_requestBlock rfl hready (by simp [hlen]) (setRehearse_notFound hm hon hl hnone)

end Sys2Proof.Machine
end

section
/-! The timers of a stop and of an allowance (R27, R28, R30, R33, R59): what each expiry does at its instant and before it, and the obligations on
promotion, confirmation, and the other three timers. -/

namespace Sys2Proof.Machine

section
variable {s : State} {l : Fin 8} {ln : Line} {lv : Live}

/-! ## PROMOTION_EXPIRY (R27, R34) -/

/-- The stoppage that a promotion opens, with the number given. -/
def Candidate.promoted (c : Candidate) (d : LineDef) (number : BitVec 32) (now : Tick) (plant : Option PlantTime) : Stoppage :=
  { number := number, start := c.start
    startPlant := plant.bind fun t => t.less (now - c.start).toNat
    carriedIn := c.carriedIn, initial := c.root, root := c.root, segmentStart := c.chargeStart, segments := 1
    longStop := if d.longStop = 0 then none else some (c.start + ticks d.longStop)
    notified := false, cap := some (c.start + 2147483647#32), capped := false }

theorem State.promote_reached (h : s.onLine l ln lv) {c : Candidate} (hc : lv.condition = .candidate c)
    (hreached : reached c.promotion s.runClock = true) : s.promote l =
      (((({ s with lastStoppage := s.lastStoppage.set l (s.lastStoppage[l] + 1#32) }).setLine l (some { ln with live := some { lv with
          condition := .stopped (c.promoted ln.defn (s.lastStoppage[l] + 1#32) s.runClock s.plantTime)
          period := lv.period.chargePromotion c.root } })).notify (some l)
        (.stopOpened (s.lastStoppage[l] + 1#32) c.start c.root c.carriedIn)).latch .stop) := by
  have hset : ({ s with lastStoppage := s.lastStoppage.set l (s.lastStoppage[l] + 1#32) } : State).onLine l ln lv := h
  rw [State.promote, State.withLive_onLine h]
  simp only [hc, if_pos hreached, State.updLive_onLine hset]
  rfl

theorem State.promote_early (h : s.onLine l ln lv) {c : Candidate} (hc : lv.condition = .candidate c)
    (hreached : reached c.promotion s.runClock = false) : s.promote l = s := by
  rw [State.promote, State.withLive_onLine h]
  simp only [hc, hreached, Bool.false_eq_true, if_false]

theorem State.promote_noCandidate (h : s.onLine l ln lv) (hc : ∀ c, lv.condition ≠ .candidate c) : s.promote l = s := by
  rw [State.promote, State.withLive_onLine h]
  dsimp only
  split
  case h_1 c hcandidate => exact absurd hcandidate (hc c)
  all_goals rfl

theorem Period.chargePromotion_stoppagesOpened (p : Period) (r : Root) :
    (p.chargePromotion r).stoppagesOpened = satAdd p.stoppagesOpened 1 := by
  unfold Period.chargePromotion Period.bucketCharge
  split
  · rfl
  · split <;> rfl

theorem Period.bucketCharge_classes (p : Period) (r : Root) (d : BucketPart) : (p.bucketCharge r d).classes = p.classes := by
  unfold Period.bucketCharge
  split
  · rfl
  · split <;> rfl

theorem Period.chargePromotion_classes (p : Period) (r : Root) : (p.chargePromotion r).classes = p.classes :=
  p.bucketCharge_classes r _

/-! ## CONFIRMATION_EXPIRY (R30) -/

theorem State.confirmRestart_reached (h : s.onLine l ln lv) {st : Stoppage} {r e finish : Tick} (hc : lv.condition = .restarting st r e)
    (hreached : reached e s.runClock = true) (hfinish : finish = laterBack s.runClock r lv.period.start) : s.confirmRestart l =
      (s.setLine l (some { ln with live := some { lv with
          condition := .producing, lastChange := s.runClock
          rate := { lv.rate with slow := lv.rate.slow && ln.defn.nominalRate != 0, window := ln.defn.startWindow s.runClock
                                 slowStart := if lv.rate.slow && ln.defn.nominalRate != 0 then some s.runClock else none }
          period := (lv.period.chargeSegment st.root (finish - st.segmentStart)).chargeStretch .producing (s.runClock - finish) } })).notify
        (some l) (st.closedNotice finish .restartConfirmed) := by
  subst hfinish
  rw [State.confirmRestart, State.withLive_onLine h]
  simp only [hc, if_pos hreached, State.updLive_onLine h]
  rfl

theorem State.confirmRestart_early (h : s.onLine l ln lv) {st : Stoppage} {r e : Tick} (hc : lv.condition = .restarting st r e)
    (hreached : reached e s.runClock = false) : s.confirmRestart l = s := by
  rw [State.confirmRestart, State.withLive_onLine h]
  simp only [hc, hreached, Bool.false_eq_true, if_false]

theorem State.confirmRestart_noRestart (h : s.onLine l ln lv) (hc : ∀ st r e, lv.condition ≠ .restarting st r e) :
    s.confirmRestart l = s := by
  rw [State.confirmRestart, State.withLive_onLine h]
  dsimp only
  split
  case h_1 st r e hrestarting => exact absurd hrestarting (hc st r e)
  all_goals rfl

/-! ## LONG_STOP_EXPIRY and DURATION_CAP_EXPIRY (R33, R28) -/

section
variable {st : Stoppage} {e : Tick}

theorem State.takeLongStop_reached (h : s.onLine l ln lv) (hst : lv.condition.stoppage? = some st) (he : st.longStop = some e)
    (hnew : st.notified = false) (hreached : reached e s.runClock = true) : s.takeLongStop l =
      ((s.notify (some l) (.longStop st.number st.root.station st.root.cause)).latch .stop).setLine l (some { ln with
        live := some { lv with condition := lv.condition.mapStoppage fun q => { q with notified := true } } }) := by
  have hon : ((s.notify (some l) (.longStop st.number st.root.station st.root.cause)).latch .stop).onLine l ln lv :=
    State.notify_onLine h _ _
  rw [State.takeLongStop, State.withLive_onLine h]
  simp only [hst, he, if_pos (And.intro hnew hreached), State.updLive_onLine hon]

theorem State.takeLongStop_none (h : s.onLine l ln lv) (hst : lv.condition.stoppage? = none) : s.takeLongStop l = s := by
  rw [State.takeLongStop, State.withLive_onLine h]
  simp only [hst]

theorem State.takeLongStop_early (h : s.onLine l ln lv) (hst : lv.condition.stoppage? = some st)
    (hearly : st.notified = true ∨ ∀ e, st.longStop = some e → reached e s.runClock = false) : s.takeLongStop l = s := by
  rw [State.takeLongStop, State.withLive_onLine h]
  simp only [hst]
  cases he : st.longStop with
  | none => rfl
  | some e =>
    refine if_neg fun ⟨hnew, hreached⟩ => ?_
    rcases hearly with hold | hbefore
    · rw [hold] at hnew
      cases hnew
    · rw [hbefore e he] at hreached
      cases hreached

theorem State.takeCap_reached (h : s.onLine l ln lv) (hst : lv.condition.stoppage? = some st) (he : st.cap = some e)
    (hreached : reached e s.runClock = true) : s.takeCap l = s.setLine l (some { ln with
      live := some { lv with condition := lv.condition.mapStoppage fun q => { q with cap := none, capped := true } } }) := by
  rw [State.takeCap, State.withLive_onLine h]
  simp only [hst, he, if_pos hreached, State.updLive_onLine h]

theorem State.takeCap_none (h : s.onLine l ln lv) (hst : lv.condition.stoppage? = none) : s.takeCap l = s := by
  rw [State.takeCap, State.withLive_onLine h]
  simp only [hst]

theorem State.takeCap_early (h : s.onLine l ln lv) (hst : lv.condition.stoppage? = some st)
    (hearly : ∀ e, st.cap = some e → reached e s.runClock = false) : s.takeCap l = s := by
  rw [State.takeCap, State.withLive_onLine h]
  simp only [hst]
  cases he : st.cap with
  | none => rfl
  | some e => exact if_neg (Bool.eq_false_iff.mp (hearly e he))

end

/-! ## ALLOWANCE_EXPIRY (R59) -/

section
variable {cause : Nat} {start e : Tick}

theorem State.takeAllowance_planned (h : s.onLine l ln lv) (hc : lv.condition = .planned cause start) (he : lv.allowanceExpiry = some e)
    (hreached : reached e s.runClock = true) : s.takeAllowance l = (s.setLine l (some { ln with live := some { lv with
      condition := .overrun s.runClock, lastChange := s.runClock, allowanceExpiry := none
      period := lv.period.chargePlanned .planned (plannedRoot cause) (s.runClock - start) } })).notify (some l)
        (.allowanceExceeded false cause) := by
  rw [State.takeAllowance, State.withLive_onLine h]
  simp only [he, if_pos hreached, hc, State.updLive_onLine h, Live.chargeTo]
  rfl

theorem State.takeAllowance_changeover (h : s.onLine l ln lv) (hc : lv.condition = .changeover cause start)
    (he : lv.allowanceExpiry = some e) (hreached : reached e s.runClock = true) : s.takeAllowance l =
      (s.setLine l (some { ln with live := some { lv with
        condition := .overrun s.runClock, lastChange := s.runClock, allowanceExpiry := none
        period := lv.period.chargePlanned .changeover (plannedRoot cause) (s.runClock - start) } })).notify (some l)
          (.allowanceExceeded true cause) := by
  rw [State.takeAllowance, State.withLive_onLine h]
  simp only [he, if_pos hreached, hc, State.updLive_onLine h, Live.chargeTo]
  rfl

theorem State.takeAllowance_early (h : s.onLine l ln lv) (hearly : ∀ e, lv.allowanceExpiry = some e → reached e s.runClock = false) :
    s.takeAllowance l = s := by
  rw [State.takeAllowance, State.withLive_onLine h]
  cases he : lv.allowanceExpiry with
  | none => rfl
  | some e => exact if_neg (Bool.eq_false_iff.mp (hearly e he))

end

end

/-- Settles O41: the three cases of a promotion, and what it charges. -/
theorem promotionOpensAStoppage : Obligations.PromotionOpensAStoppage := fun _ _ _ _ h =>
  ⟨fun _ hc hreached => ⟨congrArg _ (State.promote_reached h hc hreached), Period.chargePromotion_stoppagesOpened _ _,
      Period.chargePromotion_classes _ _⟩,
    fun _ hc hearly => congrArg _ (State.promote_early h hc hearly), fun hc => congrArg _ (State.promote_noCandidate h hc)⟩

/-- Settles O42: the three cases of a confirmation. -/
theorem confirmationClosesTheStoppage : Obligations.ConfirmationClosesTheStoppage := fun _ _ _ _ h =>
  ⟨fun _ _ _ _ hc hreached hfinish => congrArg _ (State.confirmRestart_reached h hc hreached hfinish),
    fun _ _ _ hc hearly => congrArg _ (State.confirmRestart_early h hc hearly), fun hc => congrArg _ (State.confirmRestart_noRestart h hc)⟩

/-- Settles O43: the cases of the three expiries. -/
theorem longStopCapAndAllowanceExpire : Obligations.LongStopCapAndAllowanceExpire := fun _ _ _ _ h =>
  ⟨fun _ _ hst he hnew hreached => congrArg _ (State.takeLongStop_reached h hst he hnew hreached),
    fun _ hst hearly => congrArg _ (State.takeLongStop_early h hst hearly),
    fun _ _ hst he hreached => congrArg _ (State.takeCap_reached h hst he hreached),
    fun _ hst hearly => congrArg _ (State.takeCap_early h hst hearly),
    fun hst => ⟨congrArg _ (State.takeLongStop_none h hst), congrArg _ (State.takeCap_none h hst)⟩,
    fun _ _ _ hc he hreached => congrArg _ (State.takeAllowance_planned h hc he hreached),
    fun _ _ _ hc he hreached => congrArg _ (State.takeAllowance_changeover h hc he hreached),
    fun hearly => congrArg _ (State.takeAllowance_early h hearly)⟩

end Sys2Proof.Machine
end

section
/-! The offers to the Line Tracker (chapter 2): what a walk does to a candidate or a stoppage (R43), what each offer comes to by the mode, the
constraint and the condition, and the obligation on the offers of the constraint. -/

namespace Sys2Proof.Machine

/-! ## A walk of a live line (R43) -/

theorem Root.sameKey_iff {a b : Root} : a.sameKey b = true ↔ a.station = b.station ∧ a.cause = b.cause := by
  simp [Root.sameKey]

section
variable {s : State} {l : Fin 8} {ln : Line} {lv : Live}

theorem State.walkAgain_candidate (h : s.onLine l ln lv) {c : Candidate} (hc : lv.condition = .candidate c) : s.walkAgain l =
    if (s.walk l).sameKey c.root then s
    else s.setLine l (some { ln with live := some { lv with condition := .candidate { c with root := s.walk l } } }) := by
  rw [State.walkAgain, State.withLive_onLine h]
  simp only [hc, State.updLive_onLine h]

theorem State.walkAgain_stopped (h : s.onLine l ln lv) {st : Stoppage} (hc : lv.condition = .stopped st) : s.walkAgain l =
    if (s.walk l).sameKey st.root then s else s.reattribute l st (s.walk l) := by
  rw [State.walkAgain, State.withLive_onLine h]
  simp only [hc]

/-- Only a candidate or a stoppage has a root to walk for. -/
theorem State.walkAgain_other (h : s.onLine l ln lv) (hcandidate : ∀ c, lv.condition ≠ .candidate c)
    (hstopped : ∀ st, lv.condition ≠ .stopped st) : s.walkAgain l = s := by
  rw [State.walkAgain, State.withLive_onLine h]
  dsimp only
  split
  case h_1 c hc => exact absurd hc (hcandidate c)
  case h_2 st hst => exact absurd hst (hstopped st)
  all_goals rfl

theorem State.countUp_onLine (h : s.onLine l ln lv) (n : Nat) : (s.countUp n).2.onLine l ln lv := by
  obtain ⟨hline, hlive⟩ := h
  refine ⟨?_, hlive⟩
  rw [State.line?, State.countUp_lines]
  exact hline

/-- A re-attribution: the segment is charged up to now, the next begins under the new root, and STOP_REATTRIBUTED is queued. -/
theorem State.reattribute_onLine (h : s.onLine l ln lv) {st : Stoppage} (hc : lv.condition = .stopped st) (root : Root) :
    s.reattribute l st root = ((s.countUp st.segments).2.setLine l (some { ln with live := some { lv with
        condition := .stopped { st with root := root, segmentStart := s.runClock, segments := (s.countUp st.segments).1 }
        lastChange := s.runClock, period := lv.period.chargeSegment st.root (s.runClock - st.segmentStart) } })).notify (some l)
      (.stopReattributed st.number root (s.countUp st.segments).1) := by
  unfold State.reattribute
  simp only [State.updLive_onLine (State.countUp_onLine h _), Live.chargeTo, Live.become, hc]
  rfl

theorem State.walkAgain_walked (h : s.onLine l ln lv) : s.walked (s.walkAgain l) l ln lv := by
  refine ⟨fun c hc => ⟨fun hkey => ?_, fun hkey => ?_⟩, fun st hc => ⟨fun hkey => ?_, fun hkey => ?_⟩, State.walkAgain_other h⟩
  · rw [State.walkAgain_candidate h hc, if_pos (Root.sameKey_iff.mpr hkey)]
  · rw [State.walkAgain_candidate h hc, if_neg (mt Root.sameKey_iff.mp hkey)]
  · rw [State.walkAgain_stopped h hc, if_pos (Root.sameKey_iff.mpr hkey)]
  · rw [State.walkAgain_stopped h hc, if_neg (mt Root.sameKey_iff.mp hkey), State.reattribute_onLine h hc]
    refine ⟨_, _, fun hbelow => ?_, fun hpast => ?_, rfl⟩
    · rw [s.countUp_below hbelow]
      exact ⟨rfl, rfl⟩
    · rw [s.countUp_past hpast]
      obtain ⟨hlow, hhigh⟩ := s.freeCount_range
      exact ⟨hlow, hhigh, rfl⟩

/-! ## Offers by mode (R20) -/

theorem State.offerReport_otherMode (h : s.onLine l ln lv) (hmode : ln.mode ≠ .scheduled) (r : Station) (x : Tick) :
    s.offerReport l r x = s := by
  rw [State.offerReport, State.withLive_onLine h]
  cases hm : ln.mode with
  | scheduled => exact absurd hm hmode
  | _ => rfl

theorem State.offerSilent_otherMode (h : s.onLine l ln lv) (hmode : ln.mode ≠ .scheduled) (r : Station) : s.offerSilent l r = s := by
  rw [State.offerSilent, State.withLive_onLine h]
  cases hm : ln.mode with
  | scheduled => exact absurd hm hmode
  | _ => rfl

/-- A report's offer to a SCHEDULED line, by the condition. -/
def State.offered (s : State) (l : Fin 8) (d : LineDef) (c : Condition) (constraint running : Bool) (x : Tick) : State :=
  match c with
  | .unobserved => if constraint then s.endUnobserved l d running else s
  | .producing => if constraint && !running then s.startCandidate l d x else s
  | .candidate c => if constraint && running then s.returnFromCandidate l d c x else s.walkAgain l
  | .stopped st => if constraint && running then s.startRestart l d st x else s.walkAgain l
  | .restarting st _ _ => if constraint && !running then s.relapse l st x else s
  | .notScheduled | .planned _ _ | .changeover _ _ | .overrun _ => s

theorem State.offerReport_scheduled (h : s.onLine l ln lv) (hmode : ln.mode = .scheduled) (r : Station) (x : Tick) :
    s.offerReport l r x = s.offered l ln.defn lv.condition r.constraint (r.reported == some .run) x := by
  rw [State.offerReport, State.withLive_onLine h]
  simp only [hmode]
  rfl

theorem State.offerSilent_scheduled (h : s.onLine l ln lv) (hmode : ln.mode = .scheduled) (r : Station) :
    s.offerSilent l r = if r.constraint then s.loseConstraint l ln.defn lv else s.walkAgain l := by
  rw [State.offerSilent, State.withLive_onLine h]
  simp only [hmode]

/-- An offer of another station than the constraint walks again, and does no more. -/
theorem State.offerReport_notConstraint (h : s.onLine l ln lv) (hmode : ln.mode = .scheduled) {r : Station} (hr : r.constraint = false)
    (x : Tick) : s.offerReport l r x = s.walkAgain l := by
  rw [State.offerReport_scheduled h hmode, hr]
  cases hc : lv.condition with
  | candidate | stopped => rfl
  | _ => exact (State.walkAgain_other h (by simp [hc]) (by simp [hc])).symm

end

/-! ## Reports of the constraint, not in RUN -/

section
variable {s : State} {l : Fin 8} {ln : Line} {lv : Live} {r : Station} {x : Tick}

/-- The report is of the constraint, and says other than RUN, on a SCHEDULED line. -/
theorem State.offerReport_stops (h : s.onLine l ln lv) (hmode : ln.mode = .scheduled) (hr : r.constraint = true)
    (hrun : r.reported ≠ some .run) : s.offerReport l r x = s.offered l ln.defn lv.condition true false x := by
  rw [State.offerReport_scheduled h hmode, hr, beq_eq_false_iff_ne.mpr hrun]

theorem State.offerReport_runs (h : s.onLine l ln lv) (hmode : ln.mode = .scheduled) (hr : r.constraint = true)
    (hrun : r.reported = some .run) : s.offerReport l r x = s.offered l ln.defn lv.condition true true x := by
  rw [State.offerReport_scheduled h hmode, hr, beq_iff_eq.mpr hrun]

/-- The live state of a PRODUCING line whose constraint left RUN at `x` (R24). -/
def Live.stoppedAt (lv : Live) (d : LineDef) (root : Root) (now x : Tick) : Live :=
  ({ lv with period := lv.period.chargeStretch .producing (x - lv.lastChange) }.leaveProducing d now x).become
    (.candidate (Candidate.begin d root x)) x

theorem State.startCandidate_onLine (h : s.onLine l ln lv) (x : Tick) :
    s.startCandidate l ln.defn x = s.setLine l (some { ln with live := some (lv.stoppedAt ln.defn (s.walk l) s.runClock x) }) := by
  rw [State.startCandidate, State.updLive_onLine h]
  rfl

theorem Live.leaveProducing_classes (lv : Live) (d : LineDef) (now j : Tick) : (lv.leaveProducing d now j).period.classes = lv.period.classes :=
  (lv.leaveProducing_beside d now j).1

theorem Live.stoppedAt_slowTicks_none (d : LineDef) (root : Root) (now x : Tick) {lv : Live} (h : lv.rate.slowStart = none) :
    (lv.stoppedAt d root now x).period.slowTicks = lv.period.slowTicks := by
  simp only [Live.stoppedAt, Live.leaveProducing, h]
  rfl

theorem Live.stoppedAt_slowTicks_some (d : LineDef) (root : Root) (now x : Tick) {lv : Live} {a : Tick} (h : lv.rate.slowStart = some a) :
    (lv.stoppedAt d root now x).period.slowTicks = lv.period.slowTicks + slowTime now a x := by
  simp only [Live.stoppedAt, Live.leaveProducing, h]
  rfl

/-- The live state of an UNOBSERVED line whose constraint is seen again at `now` (R37). -/
def Live.seenAgain (lv : Live) (d : LineDef) (root : Root) (now : Tick) (running : Bool) : Live :=
  if running then ((lv.chargeTo now).become .producing now).startProducing d now
  else (lv.chargeTo now).become (.candidate (Candidate.begin d root now)) now

theorem State.endUnobserved_onLine (h : s.onLine l ln lv) (running : Bool) : s.endUnobserved l ln.defn running =
    s.setLine l (some { ln with live := some (lv.seenAgain ln.defn (s.walk l) s.runClock running) }) := by
  rw [State.endUnobserved, State.updLive_onLine h]
  rfl

theorem Live.chargeTo_unobserved {lv : Live} (h : lv.condition = .unobserved) (t : Tick) :
    (lv.chargeTo t).period = lv.period.chargeStretch .unobserved (t - lv.lastChange) := by
  simp only [Live.chargeTo, h]
  rfl

/-! ## A relapse, and a return to RUN -/

theorem State.relapse_onLine (h : s.onLine l ln lv) (st : Stoppage) (x : Tick) : s.relapse l st x =
    (s.setLine l (some { ln with live := some { lv with condition := .stopped st, lastChange := x } })).walkAgain l := by
  rw [State.relapse, State.updLive_onLine h]
  rfl

theorem State.startRestart_onLine (h : s.onLine l ln lv) (d : LineDef) (st : Stoppage) (x : Tick) : s.startRestart l d st x =
    (s.setLine l (some { ln with live := some { lv with
      condition := .restarting st x (x + ticks d.confirmation), lastChange := x } })).confirmRestart l := by
  rw [State.startRestart, State.updLive_onLine h]
  rfl

theorem State.returnFromCandidate_onLine (h : s.onLine l ln lv) (c : Candidate) (x : Tick) : s.returnFromCandidate l ln.defn c x =
    s.setLine l (some { ln with live := some (((lv.resolveCandidate c x).become .producing x).startProducing ln.defn x) }) := by
  rw [State.returnFromCandidate, State.updLive_onLine h]

/-- A relapse whose walk gives the stoppage's own root again. -/
theorem State.relapse_sameKey (h : s.onLine l ln lv) {st : Stoppage} (hkey : (s.walk l).sameKey st.root = true) (x : Tick) :
    s.relapse l st x = s.setLine l (some { ln with live := some { lv with condition := .stopped st, lastChange := x } }) := by
  rw [State.relapse_onLine h, State.walkAgain_stopped (State.setLine_onLine s l ln _) rfl]
  exact if_pos hkey

/-! ## The constraint goes unseen (R36) -/

theorem State.offerSilent_constraint (h : s.onLine l ln lv) (hmode : ln.mode = .scheduled) (hr : r.constraint = true) :
    s.offerSilent l r = s.loseConstraint l ln.defn lv := by
  rw [State.offerSilent_scheduled h hmode, hr, if_pos rfl]

theorem State.loseConstraint_unobserved {d : LineDef} (hc : lv.condition = .unobserved) : s.loseConstraint l d lv = s := by
  simp only [State.loseConstraint, hc]

theorem State.loseConstraint_producing (h : s.onLine l ln lv) (hc : lv.condition = .producing) : s.loseConstraint l ln.defn lv =
    s.setLine l (some { ln with
      live := some (((lv.chargeTo s.runClock).leaveProducing ln.defn s.runClock s.runClock).become .unobserved s.runClock) }) := by
  simp only [State.loseConstraint, hc, State.updLive_onLine h]

theorem State.loseConstraint_candidate {d : LineDef} (h : s.onLine l ln lv) {c : Candidate} (hc : lv.condition = .candidate c) :
    s.loseConstraint l d lv = s.setLine l (some { ln with live := some { lv with
      condition := .unobserved, lastChange := s.runClock, period := lv.period.chargeMicroStop c.root (s.runClock - c.chargeStart) } }) := by
  simp only [State.loseConstraint, hc, State.updLive_onLine h]
  rfl

theorem Live.chargeTo_stoppage {lv : Live} {st : Stoppage} (h : lv.condition.stoppage? = some st) (t : Tick) :
    (lv.chargeTo t).period = lv.period.chargeSegment st.root (t - st.segmentStart) := by
  cases hc : lv.condition with
  | stopped | restarting =>
    rw [hc] at h
    injection h with h
    subst h
    simp only [Live.chargeTo, hc]
    rfl
  | _ =>
    rw [hc] at h
    cases h

/-- A stoppage is closed and the line left in another condition: the segment is charged up to now and STOP_CLOSED queued (R32). -/
theorem State.closeStoppage_become (h : s.onLine l ln lv) {st : Stoppage} (hst : lv.condition.stoppage? = some st) (why : StopReason)
    (c : Condition) : (s.closeStoppage l st why).updLive l (·.become c s.runClock) =
      (s.setLine l (some { ln with live := some { lv with
          condition := c, lastChange := s.runClock
          period := lv.period.chargeSegment st.root (s.runClock - st.segmentStart) } })).notify (some l)
        (st.closedNotice s.runClock why) := by
  rw [State.closeStoppage, State.notify_updLive, State.updLive_updLive, State.updLive_onLine h, ← Live.chargeTo_stoppage hst]
  rfl

theorem State.loseConstraint_stoppage {d : LineDef} (h : s.onLine l ln lv) {st : Stoppage} (hst : lv.condition.stoppage? = some st) :
    s.loseConstraint l d lv = (s.setLine l (some { ln with live := some { lv with
        condition := .unobserved, lastChange := s.runClock
        period := lv.period.chargeSegment st.root (s.runClock - st.segmentStart) } })).notify (some l)
      (st.closedNotice s.runClock .constraintUnseen) := by
  rw [← State.closeStoppage_become h hst]
  cases hc : lv.condition with
  | stopped | restarting =>
    rw [hc] at hst
    injection hst with hst
    subst hst
    simp only [State.loseConstraint, hc]
  | _ =>
    rw [hc] at hst
    cases hst

end

/-! ## The obligation on the offers -/

section
variable {s : State} {l : Fin 8} {ln : Line} {lv : Live} {r : Station}

/-- The constraint of a PRODUCING line leaves RUN. -/
theorem State.offer_producing_stops (h : s.onLine l ln lv) (hmode : ln.mode = .scheduled) (hr : r.constraint = true)
    (hrun : r.reported ≠ some .run) (hc : lv.condition = .producing) (x : Tick) :
    ∃ lv', s.offerReport l r x = s.setLine l (some { ln with live := some lv' })
        ∧ lv'.condition = .candidate { start := x, chargeStart := x, carriedIn := false, root := s.walk l
                                       promotion := x + ticks ln.defn.promotion }
        ∧ lv'.lastChange = x ∧ lv'.rate.window = none ∧ lv'.rate.lowRun = 0 ∧ lv'.rate.highRun = 0
        ∧ lv'.rate.slowStart = none ∧ (ln.defn.nominalRate ≠ 0 → lv'.rate.slow = lv.rate.slow)
        ∧ (ln.defn.nominalRate = 0 → lv'.rate.slow = false)
        ∧ (lv.rate.slowStart = none → lv'.period.slowTicks = lv.period.slowTicks)
        ∧ (∀ a, lv.rate.slowStart = some a → lv'.period.slowTicks =
            lv.period.slowTicks + (if (s.runClock - x).toNat ≤ (s.runClock - a).toNat then x - a else 0#32))
        ∧ lv'.period.classes = lv.period.classes.add (x - lv.lastChange) .producing := by
  refine ⟨lv.stoppedAt ln.defn (s.walk l) s.runClock x, ?_, rfl, rfl, rfl, rfl, rfl, rfl, fun hrate => LineDef.keepsSlow_of_rate hrate _,
    fun hrate => LineDef.keepsSlow_of_no_rate hrate _, Live.stoppedAt_slowTicks_none _ _ _ _, fun a => Live.stoppedAt_slowTicks_some _ _ _ _,
    Live.leaveProducing_classes _ ln.defn _ _⟩
  rw [State.offerReport_stops h hmode hr hrun, hc, ← State.startCandidate_onLine h]
  rfl

/-- The constraint of an UNOBSERVED line is seen again, not in RUN. -/
theorem State.offer_unobserved_stops (h : s.onLine l ln lv) (hmode : ln.mode = .scheduled) (hr : r.constraint = true)
    (hrun : r.reported ≠ some .run) (hc : lv.condition = .unobserved) (x : Tick) :
    ∃ lv', s.offerReport l r x = s.setLine l (some { ln with live := some lv' })
        ∧ lv'.condition = .candidate { start := s.runClock, chargeStart := s.runClock, carriedIn := false, root := s.walk l
                                       promotion := s.runClock + ticks ln.defn.promotion }
        ∧ lv'.lastChange = s.runClock ∧ lv'.period = lv.period.chargeStretch .unobserved (s.runClock - lv.lastChange) := by
  refine ⟨lv.seenAgain ln.defn (s.walk l) s.runClock false, ?_, rfl, rfl, Live.chargeTo_unobserved hc _⟩
  rw [State.offerReport_stops h hmode hr hrun, hc, ← State.endUnobserved_onLine h]
  rfl

/-- The constraint of an UNOBSERVED line is seen again in RUN. -/
theorem State.offer_unobserved_runs (h : s.onLine l ln lv) (hmode : ln.mode = .scheduled) (hr : r.constraint = true)
    (hrun : r.reported = some .run) (hc : lv.condition = .unobserved) (x : Tick) :
    ∃ lv', s.offerReport l r x = s.setLine l (some { ln with live := some lv' })
        ∧ lv'.condition = .producing ∧ lv'.lastChange = s.runClock ∧ lv'.rate.window = ln.defn.startWindow s.runClock
        ∧ lv'.rate.slow = (lv.rate.slow && ln.defn.nominalRate != 0)
        ∧ lv'.rate.slowStart = (if lv.rate.slow && ln.defn.nominalRate != 0 then some s.runClock else none)
        ∧ lv'.period = lv.period.chargeStretch .unobserved (s.runClock - lv.lastChange) := by
  refine ⟨lv.seenAgain ln.defn (s.walk l) s.runClock true, ?_, rfl, rfl, rfl, rfl, rfl, Live.chargeTo_unobserved hc _⟩
  rw [State.offerReport_runs h hmode hr hrun, hc, ← State.endUnobserved_onLine h]
  rfl

/-- The constraint of a CANDIDATE line returns to RUN. -/
theorem State.offer_candidate_runs (h : s.onLine l ln lv) (hmode : ln.mode = .scheduled) (hr : r.constraint = true)
    (hrun : r.reported = some .run) {c : Candidate} (hc : lv.condition = .candidate c) (x : Tick) :
    ∃ lv', s.offerReport l r x = s.setLine l (some { ln with live := some lv' })
        ∧ lv'.condition = .producing ∧ lv'.lastChange = x ∧ lv'.rate.window = ln.defn.startWindow x
        ∧ lv'.rate.slow = (lv.rate.slow && ln.defn.nominalRate != 0)
        ∧ lv'.rate.slowStart = (if lv.rate.slow && ln.defn.nominalRate != 0 then some x else none)
        ∧ lv'.period = lv.period.chargeMicroStop c.root (x - c.chargeStart) := by
  refine ⟨((lv.resolveCandidate c x).become .producing x).startProducing ln.defn x, ?_, rfl, rfl, rfl, rfl, rfl, rfl⟩
  rw [State.offerReport_runs h hmode hr hrun, hc, ← State.returnFromCandidate_onLine h]
  rfl

/-- The constraint of a PRODUCING line goes unseen. -/
theorem State.offer_producing_silent (h : s.onLine l ln lv) (hmode : ln.mode = .scheduled) (hr : r.constraint = true)
    (hc : lv.condition = .producing) : ∃ lv', s.offerSilent l r = s.setLine l (some { ln with live := some lv' })
        ∧ lv'.condition = .unobserved ∧ lv'.lastChange = s.runClock ∧ lv'.rate.window = none
        ∧ lv'.period.classes = lv.period.classes.add (s.runClock - lv.lastChange) .producing := by
  refine ⟨_, (State.offerSilent_constraint h hmode hr).trans (State.loseConstraint_producing h hc), rfl, rfl, rfl, ?_⟩
  refine (Live.leaveProducing_classes _ ln.defn _ _).trans ?_
  simp only [Live.chargeTo, hc]
  rfl

end

/-- Settles O44: an offer by the line's mode, by the station's role, by what the constraint says and by the condition, each case from the lemma
of the operation that it comes to. -/
theorem offersOfTheConstraintDriveTheCondition : Obligations.OffersOfTheConstraintDriveTheCondition := by
  refine ⟨fun s l ln lv r x h => ⟨fun hmode => ⟨State.offerReport_otherMode h hmode r x, State.offerSilent_otherMode h hmode r⟩,
      fun hmode hr => ⟨?_, ?_⟩, fun hmode hr hrun => ⟨?_, ?_⟩, fun hmode hr hrun => ⟨?_, ?_⟩, fun hmode hr hc => ?_⟩,
    fun s l ln lv r x h hr => ⟨fun hmode hrun => ⟨fun hc => State.offer_producing_stops h hmode hr hrun hc x,
        fun hc => State.offer_unobserved_stops h hmode hr hrun hc x, fun st a b hc hkey => ?_⟩,
      fun hmode hrun => ⟨fun hc => ?_, fun hc => State.offer_unobserved_runs h hmode hr hrun hc x,
        fun c hc => State.offer_candidate_runs h hmode hr hrun hc x, fun st hc hearly => ?_⟩,
      fun hmode => ⟨fun hc => State.offer_producing_silent h hmode hr hc, fun c hc => ?_, fun st hst => ?_⟩⟩⟩
  · rw [State.offerReport_notConstraint h hmode hr]
    exact State.walkAgain_walked h
  · rw [State.offerSilent_scheduled h hmode, hr]
    exact State.walkAgain_walked h
  · rintro (⟨c, hc⟩ | ⟨st, hc⟩)
    all_goals
      rw [State.offerReport_stops h hmode hr hrun, hc]
      exact State.walkAgain_walked h
  · rintro st a b hc lv1 rfl
    rw [State.offerReport_stops h hmode hr hrun, hc]
    show (s.setLine l _).walked (s.relapse l st x) l _ _
    rw [State.relapse_onLine h]
    exact State.walkAgain_walked (State.setLine_onLine s l ln _)
  · intro st hc
    rw [State.offerReport_runs h hmode hr hrun, hc]
    exact congrArg Host.Outcome.next (State.startRestart_onLine h ln.defn st x).symm
  · intro st a b hc
    rw [State.offerReport_runs h hmode hr hrun, hc]
    rfl
  · rw [State.offerSilent_constraint h hmode hr, State.loseConstraint_unobserved hc]
  · rw [State.offerReport_stops h hmode hr hrun, hc, ← State.relapse_sameKey h hkey]
    rfl
  · rw [State.offerReport_runs h hmode hr hrun, hc]
    rfl
  · rw [State.offerReport_runs h hmode hr hrun, hc]
    exact (State.startRestart_onLine h ln.defn st x).trans (State.confirmRestart_early (State.setLine_onLine s l ln _) rfl hearly)
  · rw [State.offerSilent_constraint h hmode hr, State.loseConstraint_candidate h hc]
  · rw [State.offerSilent_constraint h hmode hr, State.loseConstraint_stoppage h hst]
    rfl

end Sys2Proof.Machine
end

section
/-! The clocks' own advance and the requests that arm, disarm and read (R131–R141), case by case, with their three obligations. -/

namespace Sys2Proof.Machine

/-! ## The clocks' own advance (R131, R132, R136) -/

section
variable {s : State} {c : PlantClock}

theorem State.tickRunClock_free (h : s.resetPhase ≠ .held) : s.tickRunClock = { s with runClock := s.runClock + 1 } := by
  cases hphase : s.resetPhase with
  | held => exact absurd hphase h
  | startUp | running => simp only [State.tickRunClock, hphase]

theorem State.tickRunClock_held (h : s.resetPhase = .held) : s.tickRunClock = s := by simp only [State.tickRunClock, h]

theorem State.advancePlant_unset (h : s.plant = none) : s.advancePlant = s := by simp only [State.advancePlant, h]

theorem State.limitPlant_unset (h : s.plant = none) : s.limitPlant = s := by simp only [State.limitPlant, h]

theorem State.advancePlant_set (h : s.plant = some c) : s.advancePlant =
    if 100 ≤ (s.runClock - c.boundary).toNat ∧ c.seconds < 4294967295 then
      { s with plant := some { seconds := c.seconds + 1, boundary := c.boundary + 100#32 } }
    else s := by
  simp only [State.advancePlant, h, PlantClock.secondOver, decide_eq_true_eq, maxCount]

theorem State.limitPlant_set (h : s.plant = some c) : s.limitPlant =
    if 100 ≤ (s.runClock - c.boundary).toNat ∧ 4294967295 ≤ c.seconds then { s with plant := none } else s := by
  simp only [State.limitPlant, h, PlantClock.secondOver, decide_eq_true_eq, maxCount]

end

/-- Settles O20: the Run Clock by the reset phase; the Plant Clock by whether a second is over and whether it is the last. -/
theorem clocksAdvance : Obligations.ClocksAdvance := by
  intro s
  refine ⟨fun h => congrArg _ (State.tickRunClock_free h), fun h => congrArg _ (State.tickRunClock_held h),
    fun c hc hover hbelow => ⟨congrArg Host.Outcome.next ?_, congrArg Host.Outcome.next ?_⟩,
    fun c hc hover hlast => ⟨congrArg Host.Outcome.next ?_, congrArg Host.Outcome.next ?_⟩,
    fun c hc hwithin => ⟨congrArg Host.Outcome.next ?_, congrArg Host.Outcome.next ?_⟩,
    fun h => ⟨congrArg _ (State.advancePlant_unset h), congrArg _ (State.limitPlant_unset h)⟩⟩
  · rw [State.advancePlant_set hc, if_pos ⟨hover, hbelow⟩]
  · rw [State.limitPlant_set hc, if_neg (by omega)]
  · rw [State.limitPlant_set hc, if_pos ⟨hover, hlast⟩]
  · rw [State.advancePlant_set hc, if_neg (by omega)]
  · rw [State.advancePlant_set hc, if_neg (by omega)]
  · rw [State.limitPlant_set hc, if_neg (by omega)]

/-! ## ARM_TRIGGER (R138) -/

section
variable {p : List Byte} {s : State} {k : Fin 8} {c : PlantClock}

theorem armInRange_iff : armInRange p = true ↔ (u32 p 5 = 0 ∨ (60 ≤ u32 p 5 ∧ u32 p 5 ≤ 604800)) ∧ u8 p 9 ≠ 0 := by
  simp [armInRange]

theorem armTrigger_unset (hk : u8 p 0 = k.val) (hrange : armInRange p = true) (hplant : s.plantNow = none) :
    armTrigger p s = (s, .refuse .clockUnset) := by
  simp only [armTrigger, lineNo_val hk, hrange, hplant]

theorem armTrigger_late (hk : u8 p 0 = k.val) (hrange : armInRange p = true) (hplant : s.plantNow = some c) (hlate : u32 p 1 ≤ c.seconds) :
    armTrigger p s = (s, .refuse .late) := by
  simp only [armTrigger, lineNo_val hk, hrange, hplant, if_pos hlate]

theorem armTrigger_ok (hk : u8 p 0 = k.val) (hrange : armInRange p = true) (hplant : s.plantNow = some c) (htime : c.seconds < u32 p 1) :
    armTrigger p s = ({ s with triggers := s.triggers.set k (Trigger.armedBy p) }, .ok) := by
  simp only [armTrigger, lineNo_val hk, hrange, hplant, if_neg (Nat.not_le.mpr htime)]
  rfl

theorem armTrigger_badTrigger (hk : 7 < u8 p 0) : armTrigger p s = (s, .badValue) := by
  simp only [armTrigger, lineNo_none hk]

theorem armTrigger_badRange (hrange : armInRange p = false) : armTrigger p s = (s, .badValue) := by
  cases hk : lineNo (u8 p 0) <;> simp only [armTrigger, hk, hrange]

end

/-- Settles O22: the checks of ARM_TRIGGER in their order, then the one trigger set. -/
theorem armTriggerArmsOneTrigger : Obligations.ArmTriggerArmsOneTrigger := by
  intro s p hready hlen
  refine ⟨fun k hk hinterval hlines => ?_, fun hbad => ?_⟩
  · have hrange : armInRange p = true := armInRange_iff.mpr ⟨hinterval, hlines⟩
    exact ⟨fun hplant => exec_of_requestBlock rfl hready (by simp [hlen]) (armTrigger_unset hk hrange hplant),
      fun c hplant => ⟨fun hlate => exec_of_requestBlock rfl hready (by simp [hlen]) (armTrigger_late hk hrange hplant hlate),
        fun htime => exec_of_requestBlock rfl hready (by simp [hlen]) (armTrigger_ok hk hrange hplant htime)⟩⟩
  · rcases hbad with hk | hbad
    · exact exec_of_requestBlock rfl hready (by simp [hlen]) (armTrigger_badTrigger hk)
    · have hrange : armInRange p = false := Bool.eq_false_iff.mpr (mt armInRange_iff.mp (by omega))
      exact exec_of_requestBlock rfl hready (by simp [hlen]) (armTrigger_badRange hrange)

/-! ## READ_CLOCK, DISARM_TRIGGER and READ_TRIGGERS (R137, R141) -/

section
variable {p : List Byte} {s : State} {k : Fin 8}

theorem disarmTrigger_badValue (hk : 7 < u8 p 0) : disarmTrigger p s = (s, .badValue) := by rw [disarmTrigger, lineNo_none hk]

theorem disarmTrigger_ok (hk : u8 p 0 = k.val) : disarmTrigger p s =
    ({ s with triggers := s.triggers.set k { s.trigger k with state := .disarmed } }, .ok) := by
  rw [disarmTrigger, lineNo_val hk]
  rfl

/-- A plant time after its presence byte. -/
theorem encPlant_present (o : Option PlantTime) : encFlag o.isSome ++ encPlant o =
    match o with
    | some t => [1#8] ++ enc4 t.seconds ++ enc1 t.hundredths
    | none => [0#8] ++ enc4 0 ++ [255#8] := by
  cases o <;> rfl

/-- The plant seconds after their presence byte. -/
theorem encSeconds_present (o : Option PlantClock) : encFlag o.isSome ++ enc4 ((o.map (·.seconds)).getD 0) =
    match o with
    | some c => [1#8] ++ enc4 c.seconds
    | none => [0#8] ++ enc4 0 := by
  cases o <;> rfl

theorem encList_triggers (ts : Vector Trigger 8) : encList Trigger.bytes ts.toList = [8#8] ++ ts.toList.flatMap Trigger.bytes := by
  rw [encList, Vector.length_toList]
  rfl

end

/-- Settles O23: each response as its block builds it, with the presence bytes of plant time and plant seconds. -/
theorem clocksAndTriggersAreReadAndDisarmed : Obligations.ClocksAndTriggersAreReadAndDisarmed := by
  intro s p hready
  refine ⟨fun hlen => exec_badLength rfl hready (by simpa using hlen), ?_, fun hlen hk => ?_, fun k hlen hk => ?_,
    fun hlen => exec_badLength rfl hready (by simpa using hlen), ?_⟩
  · refine (exec_of_requestBlock (i := .readClock []) rfl hready (by simp) rfl).trans ?_
    rw [encPlant_present]
    rfl
  · exact exec_of_requestBlock rfl hready (by simp [hlen]) (disarmTrigger_badValue hk)
  · exact exec_of_requestBlock rfl hready (by simp [hlen]) (disarmTrigger_ok hk)
  · refine (exec_of_requestBlock (i := .readTriggers []) rfl hready (by simp) rfl).trans ?_
    rw [encList_triggers, List.append_assoc ([8#8] ++ _), encSeconds_present]
    rfl

end Sys2Proof.Machine
end

section
/-! The Period Triggers (R138–R142): the closes that a trigger makes, what an expiry does to the trigger and to the part, what a move of the Plant
Clock does, and the obligations on TRIGGER_EXPIRY, LOAD_CLOCK and STEP_CLOCK. -/

namespace Sys2Proof.Machine

/-! ## The stations of a line out of scope -/

section
variable {sc : Scope}

/-- A search by configured fields, for a record of a line out of scope, finds the same record. -/
theorem StationsFollow.find_elsewhere {rs qs : List Station} (h : StationsFollow sc rs qs) {p : Station → Bool}
    (hconfig : ∀ r q : Station, r.sameConfig q → p q = p r) (hline : ∀ r, p r = true → ¬sc.line r.line) : qs.find? p = rs.find? p := by
  induction h with
  | nil => rfl
  | @cons r q rs qs hfollows _ ih =>
    obtain ⟨hsame, hwhole⟩ := hfollows
    rw [List.find?_cons, List.find?_cons, hconfig r q hsame, ih]
    cases hp : p r with
    | true => rw [hwhole (hline r hp)]
    | false => rfl

theorem StationsFollow.lineStations {rs qs : List Station} (h : StationsFollow sc rs qs) {l : Fin 8} (hl : ¬sc.line l) :
    lineStations qs l = lineStations rs l := by
  refine congrArg (List.filterMap · _) (funext fun p => h.find_elsewhere (fun r q hsame => ?_) fun r hr => ?_)
  · obtain ⟨_, _, _, hline, hposition, _⟩ := hsame
    rw [hline, hposition]
  · have hline : r.line = l := by simp at hr; exact hr.1
    rwa [hline]

theorem Touch.lineStations {s t : State} (h : Touch sc s t) {l : Fin 8} (hl : ¬sc.line l) :
    lineStations t.stations l = lineStations s.stations l := by
  induction h with
  | trans _ _ ih1 ih2 => exact ih2.trans ih1
  | note s o n => rw [State.notify_stations]
  | stations s xs hx => exact hx.lineStations hl
  | _ => rfl

end

/-! ## The closes of a set of lines (R139 step 1) -/

/-- The lines of a list are closed for a trigger, in the order of the list. -/
def State.closeEach (s : State) (ls : List (Fin 8)) : State := ls.foldl (fun a l => a.closeLine l .trigger) s

section
variable {s : State} {l : Fin 8} {ln : Line} {lv : Live}

theorem State.qualifies_congr {t : State} (hline : t.line? l = s.line? l) (hpart : t.partState = s.partState)
    (hclock : t.runClock = s.runClock) : t.qualifies l = s.qualifies l := by
  simp only [State.qualifies, State.periodEmpty, State.live?, hline, hpart, hclock]

/-- A close of another line leaves whether this one qualifies. -/
theorem State.qualifies_closeLine (s : State) {l l' : Fin 8} (h : l' ≠ l) (why : CloseReason) :
    (s.closeLine l why).qualifies l' = s.qualifies l' := by
  have htouch := State.closeLine_touch why s l
  exact State.qualifies_congr (htouch.otherLine l' h).1 htouch.frame.partState htouch.frame.runClock

theorem bit_at (l l' : Fin 8) : (1#8 <<< l.val).getLsbD l'.val = decide (l' = l) := by
  revert l l'
  decide

/-- The closes of a trigger's set are those of the lines that qualify at its expiry, for no close changes whether another line qualifies. -/
theorem foldl_closeOne (set : BitVec 8) (ls : List (Fin 8)) (hls : ls.Nodup) (a : State × BitVec 8) :
    (ls.foldl (closeOne set) a).1 = a.1.closeEach (ls.filter fun l => set.getLsbD l.val && a.1.qualifies l)
      ∧ ∀ l : Fin 8, (ls.foldl (closeOne set) a).2.getLsbD l.val
          = (a.2.getLsbD l.val || (decide (l ∈ ls) && (set.getLsbD l.val && a.1.qualifies l))) := by
  induction ls generalizing a with
  | nil => exact ⟨rfl, fun l => by simp⟩
  | cons m ls ih =>
    obtain ⟨hm, hls⟩ := List.nodup_cons.mp hls
    rw [List.foldl_cons]
    obtain ⟨ihstate, ihbits⟩ := ih hls (closeOne set a m)
    rw [ihstate]
    by_cases hclose : (set.getLsbD m.val && a.1.qualifies m) = true
    · have hone : closeOne set a m = (a.1.closeLine m .trigger, a.2 ||| (1#8 <<< m.val)) := if_pos hclose
      have hsame : ∀ l, l ≠ m → (closeOne set a m).1.qualifies l = a.1.qualifies l := fun l hl => by
        rw [hone]
        exact a.1.qualifies_closeLine hl .trigger
      refine ⟨?_, fun l => ?_⟩
      · rw [List.filter_congr fun l hl => by rw [hsame l fun e => hm (e ▸ hl)],
          List.filter_cons_of_pos (p := fun l => set.getLsbD l.val && a.1.qualifies l) hclose, hone]
        rfl
      · rw [ihbits l]
        by_cases hl : l = m
        · subst hl
          simp only [hone, BitVec.getLsbD_or, bit_at, hclose]
          simp
        · rw [hsame l hl, hone, BitVec.getLsbD_or, bit_at]
          simp [hl]
    · have hone : closeOne set a m = a := if_neg hclose
      rw [hone] at ihbits ⊢
      rw [List.filter_cons_of_neg (p := fun l => set.getLsbD l.val && a.1.qualifies l) hclose]
      refine ⟨rfl, fun l => ?_⟩
      rw [ihbits l]
      by_cases hl : l = m
      · subst hl
        rw [Bool.eq_false_iff.mpr hclose, Bool.and_false, Bool.and_false]
      · simp [hl]

theorem allLines_nodup : allLines.Nodup := by decide

/-- The lines that a trigger's set closes. -/
def State.closable (s : State) (set : BitVec 8) : List (Fin 8) := allLines.filter fun l => set.getLsbD l.val && s.qualifies l

theorem State.mem_closable {set : BitVec 8} : l ∈ s.closable set ↔ set.getLsbD l.val = true ∧ s.qualifies l = true := by
  simp [State.closable, mem_allLines]

theorem State.closeSet_state (s : State) (set : BitVec 8) : (s.closeSet set).1 = s.closeEach (s.closable set) :=
  (foldl_closeOne set allLines allLines_nodup (s, 0#8)).1

theorem State.closeSet_lines (s : State) (set : BitVec 8) (l : Fin 8) :
    (s.closeSet set).2.getLsbD l.val = (set.getLsbD l.val && s.qualifies l) := by
  rw [State.closeSet, (foldl_closeOne set allLines allLines_nodup (s, 0#8)).2]
  simp [mem_allLines]

/-- The closes of a list of lines touch those lines. -/
def Scope.ofLines (ls : List (Fin 8)) : Scope :=
  { line := (· ∈ ls), link := fun _ => False, trigger := fun _ => False, part := False }

theorem State.closeEach_touch (s : State) (ls : List (Fin 8)) : Touch (.ofLines ls) s (s.closeEach ls) := by
  induction ls generalizing s with
  | nil => exact .refl s
  | cons m ls ih =>
    refine .trans (Touch.closeLine (List.mem_cons_self (a := m)) .trigger) ((ih (s.closeLine m .trigger)).mono ?_)
    exact ⟨fun _ => List.mem_cons_of_mem _, fun _ => id, fun _ => id, id⟩

/-- A line among those closed is closed as it stood before the first of the closes. -/
theorem State.closeEach_line {ls : List (Fin 8)} (hls : ls.Nodup) (hl : l ∈ ls) (h : s.onLine l ln lv) :
    (s.closeEach ls).store[l] = placeIn s.store[l] (s.closingRecord l lv .trigger)
      ∧ ∃ lv', (s.closeEach ls).live? l = some lv' ∧ lv'.period.start = s.runClock := by
  induction ls generalizing s with
  | nil => exact absurd hl List.not_mem_nil
  | cons m ls ih =>
    obtain ⟨hm, hls⟩ := List.nodup_cons.mp hls
    have hcons : s.closeEach (m :: ls) = (s.closeLine m .trigger).closeEach ls := rfl
    rw [hcons]
    rcases List.mem_cons.mp hl with rfl | hl
    · obtain ⟨hline, hstore, _⟩ := ((s.closeLine l .trigger).closeEach_touch ls).otherLine l hm
      refine ⟨hstore.trans (State.closeLine_store_same .trigger h), ?_⟩
      rw [State.live?, hline, State.closeLine_line? .trigger h]
      exact ⟨_, rfl, rfl⟩
    · have htouch := State.closeLine_touch .trigger s m
      have hne : l ≠ m := fun e => hm (e ▸ hl)
      obtain ⟨hline, hstore, _⟩ := htouch.otherLine l hne
      have hclock : (s.closeLine m .trigger).runClock = s.runClock := htouch.frame.runClock
      have hon : (s.closeLine m .trigger).onLine l ln lv := ⟨hline.trans h.1, h.2⟩
      obtain ⟨ihstore, lv', hlive, hstart⟩ := ih hls hl hon
      refine ⟨?_, lv', hlive, hstart.trans hclock⟩
      rw [ihstore, hstore, State.closingRecord, State.closingRecord, hclock, State.plantTime_congr hclock htouch.frame.plant,
        htouch.lineStations hne]

end

/-! ## The trigger after an expiry (R139 steps 2 and 3) -/

/-- The intervals skipped at an expiry are the whole intervals between the trigger's time and the plant seconds. -/
theorem Trigger.skippedAt_eq (t : Trigger) (seconds : Nat) :
    t.skippedAt seconds = if t.interval = 0 then 0 else (seconds - t.time) / t.interval := by
  unfold Trigger.skippedAt intervalsPast
  split <;> rfl

/-- What a trigger holds after an expiry, by its next time. -/
theorem Trigger.fired_eq (t : Trigger) (seconds : Nat) (at_ : Option PlantTime) (n next : Nat) (hn : n = t.skippedAt seconds)
    (hnext : t.interval ≠ 0 → next = t.time + t.interval * (n + 1)) (harmed : t.state = .armed) :
    t.fired seconds at_ = { t with
      lastFired := at_, skipped := min (t.skipped + n) 4294967295
      state := if t.interval = 0 ∨ 4294967295 < next then .spent else .armed
      time := if t.interval = 0 ∨ 4294967295 < next then t.time else next } := by
  subst hn
  by_cases hinterval : t.interval = 0
  · simp only [Trigger.fired, hinterval, true_or, if_true, satAdd, maxCount]
  · have hskipped : t.skippedAt seconds = (seconds - t.time) / t.interval := by rw [Trigger.skippedAt_eq, if_neg hinterval]
    have hpast : t.time + t.interval * intervalsPast t.time t.interval seconds = next := by
      rw [hnext hinterval, hskipped]
      rfl
    by_cases hover : 4294967295 < next
    · simp only [Trigger.fired, hinterval, hpast, maxCount, hover, or_true, if_true, satAdd]
    · simp only [Trigger.fired, hinterval, hpast, maxCount, hover, or_self, if_false, satAdd, harmed]

/-- The next time lies past the plant seconds, by no more than an interval. -/
theorem nextTime_bounds {time interval seconds : Nat} (hinterval : 0 < interval) (htime : time ≤ seconds) :
    seconds < time + interval * ((seconds - time) / interval + 1)
      ∧ time + interval * ((seconds - time) / interval + 1) ≤ seconds + interval := by
  have hdiv := Nat.div_add_mod (seconds - time) interval
  have hmod := Nat.mod_lt (seconds - time) hinterval
  rw [Nat.mul_add, Nat.mul_one]
  omega

/-! ## The expiry of a trigger -/

section
variable {s : State} {k : Fin 8} {seconds : Nat}

/-- An expiry, with its closes and its trigger written out. -/
theorem State.fireTrigger_eq (s : State) (k : Fin 8) (seconds : Nat) (moved : Bool) : s.fireTrigger k seconds moved =
    (({ s.closeEach (s.closable (s.trigger k).lines) with
        triggers := s.triggers.set k ((s.trigger k).fired seconds s.plantTime) } : State).notify none
      (.triggerFired k (s.closeSet (s.trigger k).lines).2 ((s.trigger k).lines &&& ~~~(s.closeSet (s.trigger k).lines).2)
        ((s.trigger k).skippedAt seconds) moved)).latch .clock := by
  have htriggers : (s.closeEach (s.closable (s.trigger k).lines)).triggers = s.triggers :=
    (State.closeEach_touch _ _).triggers_same fun _ => not_false
  have htrigger : (s.closeEach (s.closable (s.trigger k).lines)).trigger k = s.trigger k :=
    (State.closeEach_touch _ _).otherTrigger k not_false
  simp only [State.fireTrigger, State.updTrigger, State.closeSet_state, htriggers, htrigger]

theorem State.fireTrigger_triggers (s : State) (k : Fin 8) (seconds : Nat) (moved : Bool) :
    (s.fireTrigger k seconds moved).triggers = s.triggers.set k ((s.trigger k).fired seconds s.plantTime) := by
  rw [State.fireTrigger_eq, State.latch, State.notify_triggers]

theorem State.fireTrigger_trigger (s : State) (k : Fin 8) (seconds : Nat) (moved : Bool) :
    (s.fireTrigger k seconds moved).trigger k = (s.trigger k).fired seconds s.plantTime := by
  rw [State.trigger, State.fireTrigger_triggers]
  exact Vector.getElem_set_self _

theorem State.fireTrigger_touch (s : State) (k : Fin 8) (seconds : Nat) (moved : Bool) :
    Touch (.ofTrigger k) s (s.fireTrigger k seconds moved) :=
  Touch.fireTrigger (fun _ => trivial) rfl seconds moved

theorem State.fireTrigger_latched (s : State) (k : Fin 8) (seconds : Nat) (moved : Bool) :
    (s.fireTrigger k seconds moved).attention.flags.clock = true := rfl

theorem State.fireTrigger_lines (s : State) (k : Fin 8) (seconds : Nat) (moved : Bool) :
    (s.fireTrigger k seconds moved).lines = (s.closeEach (s.closable (s.trigger k).lines)).lines := by
  rw [State.fireTrigger_eq, State.latch, State.notify_lines]

theorem State.fireTrigger_store (s : State) (k : Fin 8) (seconds : Nat) (moved : Bool) :
    (s.fireTrigger k seconds moved).store = (s.closeEach (s.closable (s.trigger k).lines)).store := by
  rw [State.fireTrigger_eq, State.latch, State.notify_store]

theorem State.fireTrigger_periodCounter (s : State) (k : Fin 8) (seconds : Nat) (moved : Bool) :
    (s.fireTrigger k seconds moved).periodCounter = (s.closeEach (s.closable (s.trigger k).lines)).periodCounter := by
  rw [State.fireTrigger_eq, State.latch, State.notify_periodCounter]

theorem State.takeTriggerExpiry_reached {c : PlantClock} (hplant : s.plantNow = some c) (harmed : (s.trigger k).state = .armed)
    (htime : (s.trigger k).time ≤ c.seconds) : s.takeTriggerExpiry k = s.fireTrigger k c.seconds false := by
  simp only [State.takeTriggerExpiry, hplant, if_pos (And.intro harmed htime)]

end

/-- Settles O24: the expiry written out; the trigger by `Trigger.fired_eq`, each line closed as it stood at the expiry, the others untouched. -/
theorem triggerExpiryClosesItsLines : Obligations.TriggerExpiryClosesItsLines := by
  intro s k c hplant harmed htime
  have htrigger := s.fireTrigger_trigger k c.seconds false
  have hfired := Trigger.fired_eq (s.trigger k) c.seconds s.plantTime _ _ rfl (fun _ => rfl) harmed
  have hskipped := (s.trigger k).skippedAt_eq c.seconds
  have htouch := s.closeEach_touch (s.closable (s.trigger k).lines)
  have hlines : ∀ l, (s.fireTrigger k c.seconds false).line? l = (s.closeEach (s.closable (s.trigger k).lines)).line? l := fun l => by
    rw [State.line?, State.line?, State.fireTrigger_lines]
  refine ⟨_, congrArg Host.Outcome.next (State.takeTriggerExpiry_reached hplant harmed htime), s.fireTrigger_latched k c.seconds false, ?_, ?_, ?_,
    fun hinterval => ?_, fun hinterval hstill => ?_, fun hinterval => ?_, fun k' hk' => ?_, ?_, fun l hl => ?_, fun l hset hq ln lv h => ?_⟩
  · rw [htrigger, hfired]
  · rw [htrigger, hfired]
  · rw [htrigger, hfired]
  · rw [if_pos hinterval] at hskipped
    rw [htrigger, hfired, hskipped]
    simp [hinterval]
  · rw [if_neg (Nat.ne_of_gt hinterval)] at hskipped
    rw [htrigger, hfired, hskipped] at hstill
    rw [htrigger, hfired, hskipped]
    have hwithin : ¬((s.trigger k).interval = 0
        ∨ 4294967295 < (s.trigger k).time + (s.trigger k).interval * ((c.seconds - (s.trigger k).time) / (s.trigger k).interval + 1)) :=
      fun hspent => by simp [hspent] at hstill
    obtain ⟨hpast, hnear⟩ := nextTime_bounds hinterval htime
    simp only [if_neg hwithin]
    exact ⟨hpast, hnear, by omega, _, by rw [Nat.mul_comm], rfl⟩
  · rw [if_neg (Nat.ne_of_gt hinterval)] at hskipped
    rw [htrigger, hfired, hskipped]
    have hzero : (s.trigger k).interval ≠ 0 := Nat.ne_of_gt hinterval
    by_cases hover : 4294967295 < (s.trigger k).time
        + (s.trigger k).interval * ((c.seconds - (s.trigger k).time) / (s.trigger k).interval + 1)
    · simp [hover]
    · simp [hzero, hover]
      omega
  · exact (s.fireTrigger_touch k c.seconds false).otherTrigger k' hk'
  · refine ⟨_, _, (s.trigger k).skippedAt c.seconds, rfl, s.closeSet_lines _, fun hinterval => ?_, fun hinterval => ?_, ?_⟩
    · rw [hskipped, if_pos hinterval]
    · rw [hskipped, if_neg (Nat.ne_of_gt hinterval)]
    · rw [State.fireTrigger_triggers]
      exact s.fireTrigger_eq k c.seconds false
  · have hout : l ∉ s.closable (s.trigger k).lines := fun hmem => by
      obtain ⟨hset, hq⟩ := State.mem_closable.mp hmem
      exact hl.elim (fun hl => Bool.false_ne_true (hl.symm.trans hset)) fun hl => Bool.false_ne_true (hl.symm.trans hq)
    obtain ⟨hline, hstore, _, hcounter⟩ := htouch.otherLine l hout
    rw [hlines, State.fireTrigger_store, State.fireTrigger_periodCounter]
    exact ⟨hline, hstore, hcounter⟩
  · have hin : l ∈ s.closable (s.trigger k).lines := State.mem_closable.mpr ⟨hset, hq⟩
    rw [State.fireTrigger_store, State.live?, hlines]
    exact State.closeEach_line (allLines_nodup.filter _) hin h

end Sys2Proof.Machine
end

section
/-! LOAD_CLOCK and STEP_CLOCK (R134, R135, R140): the Plant Clock as a move leaves it, the triggers examined in their order, and the obligation on
moves. -/

namespace Sys2Proof.Machine

/-! ## The Plant Clock as it stands (R132) -/

section
variable {now : Tick} {c d : PlantClock}

/-- A clock whose second is not over stands as it is held. -/
theorem plantAt_within (hsecond : (now - d.boundary).toNat < 100) (hseconds : d.seconds ≤ 4294967295) : plantAt (some d) now = some d := by
  have hpassed : (now - d.boundary).toNat / 100 = 0 := Nat.div_eq_of_lt hsecond
  have hboundary : d.boundary + ticks (100 * 0) = d.boundary := by simp [ticks]
  unfold plantAt
  simp only [hpassed, Nat.add_zero, hboundary, maxCount, if_pos hseconds]

/-- The clock as it stands is in the middle of a second, within its range. -/
theorem plantAt_bounds {o : Option PlantClock} (h : plantAt o now = some d) : (now - d.boundary).toNat < 100 ∧ d.seconds ≤ 4294967295 := by
  cases o with
  | none => cases h
  | some c =>
    unfold plantAt at h
    dsimp only at h
    split at h
    case isFalse => cases h
    rename_i hseconds
    injection h with h
    subst h
    refine ⟨?_, hseconds⟩
    have hmod := Nat.mod_lt (now - c.boundary).toNat (show 0 < 100 by decide)
    have hdiv := Nat.div_add_mod (now - c.boundary).toNat 100
    generalize hpassed : (now - c.boundary).toNat / 100 = passed at *
    have hsub : now - (c.boundary + ticks (100 * passed)) = (now - c.boundary) - ticks (100 * passed) := by bv_omega
    have hticks : (ticks (100 * passed)).toNat = 100 * passed := by
      have hlt := (now - c.boundary).isLt
      rw [ticks, BitVec.toNat_ofNat, Nat.mod_eq_of_lt (by omega)]
    have hle : ticks (100 * passed) ≤ now - c.boundary := by rw [BitVec.le_def, hticks]; omega
    show (now - (c.boundary + ticks (100 * passed))).toNat < 100
    rw [hsub, BitVec.toNat_sub_of_le hle, hticks]
    omega

end

/-! ## The expiry of a trigger by a move (R139, R140) -/

section
variable {s : State} {k : Fin 8} {c : PlantClock}

/-- The clock stands at `c`: it holds it, in the middle of its second. -/
def State.standsAt (s : State) (c : PlantClock) : Prop := s.plant = some c ∧ s.plantNow = some c

theorem State.standsAt.plantTime (h : s.standsAt c) :
    s.plantTime = some { seconds := c.seconds, hundredths := (s.runClock - c.boundary).toNat } := by
  rw [State.plantTime, h.2]
  rfl

theorem Touch.standsAt {sc : Scope} {t : State} (h : Touch sc s t) (hs : s.standsAt c) : t.standsAt c := by
  refine ⟨h.frame.plant.trans hs.1, ?_⟩
  rw [State.plantNow, h.frame.plant, h.frame.runClock]
  exact hs.2

theorem State.fireTrigger_firedByMove (hs : s.standsAt c) (harmed : (s.trigger k).state = .armed) :
    s.firedByMove (s.fireTrigger k c.seconds true) k c := by
  have hskipped := (s.trigger k).skippedAt_eq c.seconds
  refine ⟨_, _, (s.trigger k).skippedAt c.seconds, _, _, rfl, s.closeSet_lines _, hskipped, rfl, ?_, s.fireTrigger_eq k c.seconds true⟩
  rw [hs.plantTime]
  exact Trigger.fired_eq (s.trigger k) c.seconds _ _ _ rfl (fun _ => rfl) harmed

/-! ## The triggers examined in order -/

/-- The trigger is ARMED for a time that the clock has reached. -/
def State.reaches (s : State) (seconds : Nat) (k : Fin 8) : Prop := (s.trigger k).state = .armed ∧ (s.trigger k).time ≤ seconds

theorem examineOne_reached {a : State × BitVec 8} {seconds : Nat} (h : a.1.reaches seconds k) :
    examineOne seconds a k = (a.1.fireTrigger k seconds true, a.2 ||| (1#8 <<< k.val)) := if_pos h

theorem examineOne_idle {a : State × BitVec 8} {seconds : Nat} (h : ¬a.1.reaches seconds k) : examineOne seconds a k = a := if_neg h

/-- The triggers of a list, one after another. -/
def examineEach (seconds : Nat) (ks : List (Fin 8)) (a : State × BitVec 8) : State × BitVec 8 := ks.foldl (examineOne seconds) a

theorem examineEach_append (seconds : Nat) (ks js : List (Fin 8)) (a : State × BitVec 8) :
    examineEach seconds (ks ++ js) a = examineEach seconds js (examineEach seconds ks a) := List.foldl_append

/-- Only the triggers of a list may change, and any line. -/
def Scope.ofTriggers (ks : List (Fin 8)) : Scope :=
  { line := fun _ => True, link := fun _ => False, trigger := (· ∈ ks), part := False }

theorem examineEach_touch (seconds : Nat) (ks : List (Fin 8)) (a : State × BitVec 8) :
    Touch (.ofTriggers ks) a.1 (examineEach seconds ks a).1 := by
  induction ks generalizing a with
  | nil => exact .refl _
  | cons k ks ih =>
    have hrest : (Scope.ofTriggers ks).le (.ofTriggers (k :: ks)) := ⟨fun _ => id, fun _ => id, fun _ => List.mem_cons_of_mem k, id⟩
    refine .trans ?_ ((ih (examineOne seconds a k)).mono hrest)
    by_cases hreach : a.1.reaches seconds k
    · rw [examineOne_reached hreach]
      exact .fireTrigger (fun _ => trivial) (List.mem_cons_self (a := k)) _ _
    · rw [examineOne_idle hreach]
      exact .refl _

/-- A trigger that is not among those examined keeps what it holds. -/
theorem examineEach_trigger {seconds : Nat} {ks : List (Fin 8)} {j : Fin 8} (hj : j ∉ ks) (a : State × BitVec 8) :
    (examineEach seconds ks a).1.trigger j = a.1.trigger j :=
  (examineEach_touch seconds ks a).otherTrigger j hj

theorem State.reaches_congr {t : State} {seconds : Nat} (h : t.trigger k = s.trigger k) : t.reaches seconds k ↔ s.reaches seconds k := by
  unfold State.reaches
  rw [h]

/-- Triggers that the clock has not reached are passed over. -/
theorem examineEach_idle {seconds : Nat} {ks : List (Fin 8)} {a : State × BitVec 8} (h : ∀ k ∈ ks, ¬a.1.reaches seconds k) :
    examineEach seconds ks a = a := by
  induction ks with
  | nil => rfl
  | cons k ks ih =>
    have hrest := ih fun j hj => h j (List.mem_cons_of_mem k hj)
    rw [examineEach, List.foldl_cons, examineOne_idle (h k List.mem_cons_self)]
    exact hrest

/-- The set of the triggers whose expiry the move caused. -/
theorem examineEach_fired {seconds : Nat} {ks : List (Fin 8)} (hks : ks.Nodup) (a : State × BitVec 8) (j : Fin 8) :
    (examineEach seconds ks a).2.getLsbD j.val = true ↔ a.2.getLsbD j.val = true ∨ (j ∈ ks ∧ a.1.reaches seconds j) := by
  induction ks generalizing a with
  | nil => exact ⟨.inl, fun h => h.elim id fun h => absurd h.1 List.not_mem_nil⟩
  | cons k ks ih =>
    obtain ⟨hk, hks⟩ := List.nodup_cons.mp hks
    have hstep : examineEach seconds (k :: ks) a = examineEach seconds ks (examineOne seconds a k) := rfl
    have hother : j ≠ k → (examineOne seconds a k).1.trigger j = a.1.trigger j := fun hj =>
      examineEach_trigger (ks := [k]) (by simpa using hj) a
    rw [hstep, ih hks]
    by_cases hj : j = k
    · subst hj
      simp only [hk, false_and, or_false, List.mem_cons_self, true_and]
      by_cases hreach : a.1.reaches seconds j
      · rw [examineOne_reached hreach, BitVec.getLsbD_or, bit_at]
        simp [hreach]
      · rw [examineOne_idle hreach]
        simp [hreach]
    · rw [State.reaches_congr (hother hj)]
      have hbit : (examineOne seconds a k).2.getLsbD j.val = a.2.getLsbD j.val := by
        by_cases hreach : a.1.reaches seconds k
        · rw [examineOne_reached hreach, BitVec.getLsbD_or, bit_at, decide_eq_false hj, Bool.or_false]
        · rw [examineOne_idle hreach]
      rw [hbit, List.mem_cons, or_iff_right hj]

/-- A trigger that the clock has reached expires in its turn, as it stood before the first of the examinations. -/
theorem examineEach_expired {c : PlantClock} {ks : List (Fin 8)} (hks : ks.Nodup) {a : State × BitVec 8} (hs : a.1.standsAt c) {j : Fin 8}
    (hj : j ∈ ks) (hreach : a.1.reaches c.seconds j) :
    (examineEach c.seconds ks a).1.attention.flags.clock = true
      ∧ (examineEach c.seconds ks a).1.trigger j = (a.1.trigger j).fired c.seconds a.1.plantTime := by
  induction ks generalizing a with
  | nil => exact absurd hj List.not_mem_nil
  | cons k ks ih =>
    obtain ⟨hk, hks⟩ := List.nodup_cons.mp hks
    have hstep : examineEach c.seconds (k :: ks) a = examineEach c.seconds ks (examineOne c.seconds a k) := rfl
    rw [hstep]
    by_cases hjk : j = k
    · subst hjk
      have hlatched : (examineOne c.seconds a j).1.attention.flags.get .clock = true := by
        rw [examineOne_reached hreach]
        exact a.1.fireTrigger_latched j c.seconds true
      refine ⟨(examineEach_touch c.seconds ks _).latched .clock hlatched, ?_⟩
      rw [examineEach_trigger hk, examineOne_reached hreach]
      exact a.1.fireTrigger_trigger j c.seconds true
    · have htouch : Touch (.ofTriggers [k]) a.1 (examineOne c.seconds a k).1 := examineEach_touch c.seconds [k] a
      have htrigger : (examineOne c.seconds a k).1.trigger j = a.1.trigger j := htouch.otherTrigger j fun h => hjk (List.mem_singleton.mp h)
      obtain ⟨hclock, hfired⟩ := ih hks (htouch.standsAt hs) ((List.mem_cons.mp hj).resolve_left hjk) ((State.reaches_congr htrigger).mpr hreach)
      refine ⟨hclock, ?_⟩
      rw [hfired, htrigger, State.plantTime_congr htouch.frame.runClock htouch.frame.plant]

end

/-! ## A move of the Plant Clock -/

theorem allTriggers_nodup : allTriggers.Nodup := by decide

theorem mem_allTriggers (k : Fin 8) : k ∈ allTriggers := by
  revert k
  decide

/-- The triggers before one of them, and itself. -/
theorem allTriggers_take (k : Fin 8) : allTriggers.take (k.val + 1) = allTriggers.take k.val ++ [k] ∧ k ∉ allTriggers.take k.val := by
  revert k
  decide

section
variable {s : State} {c : PlantClock} {k : Fin 8}

/-- The state of a move before the triggers are examined. -/
def State.moved (s : State) (c : PlantClock) : State := { s with plant := some c }

theorem State.moved_standsAt (hsecond : (s.runClock - c.boundary).toNat < 100) (hseconds : c.seconds ≤ 4294967295) :
    (s.moved c).standsAt c := ⟨rfl, plantAt_within hsecond hseconds⟩

theorem State.movePlant_backward {old : Nat} (h : c.seconds < old) : s.movePlant old c = (s.moved c, 0#8) := if_neg (Nat.not_le.mpr h)

theorem State.movePlant_forward {old : Nat} (h : old ≤ c.seconds) :
    s.movePlant old c = examineEach c.seconds allTriggers (s.moved c, 0#8) := if_pos h

theorem State.movePlant_idle {old : Nat} (h : ∀ k, ¬s.reaches c.seconds k) : s.movePlant old c = (s.moved c, 0#8) := by
  rcases Nat.lt_or_ge c.seconds old with hback | hforward
  · exact State.movePlant_backward hback
  · rw [State.movePlant_forward hforward]
    exact examineEach_idle fun k _ => h k

theorem State.examine_movedForward (hs : (s.moved c).standsAt c) :
    s.movedForward (examineEach c.seconds allTriggers (s.moved c, 0#8)).1 c
      (examineEach c.seconds allTriggers (s.moved c, 0#8)).2.toNat := by
  refine ⟨⟨fun n => (examineEach c.seconds (allTriggers.take n) (s.moved c, 0#8)).1, rfl, rfl, fun k => ?_⟩, BitVec.isLt _, fun k => ?_⟩
  · obtain ⟨htake, hk⟩ := allTriggers_take k
    have hstep : (examineEach c.seconds (allTriggers.take (k.val + 1)) (s.moved c, 0#8)).1
        = (examineOne c.seconds (examineEach c.seconds (allTriggers.take k.val) (s.moved c, 0#8)) k).1 := by
      rw [htake, examineEach_append]
      rfl
    have htrigger : (examineEach c.seconds (allTriggers.take k.val) (s.moved c, 0#8)).1.trigger k = s.trigger k := examineEach_trigger hk _
    have hreaches := State.reaches_congr (seconds := c.seconds) htrigger
    simp only [hstep]
    refine ⟨fun hreach => ?_, fun hidle => ?_⟩
    · rw [examineOne_reached (hreaches.mpr hreach)]
      exact State.fireTrigger_firedByMove ((examineEach_touch _ _ (s.moved c, 0#8)).standsAt hs) (hreaches.mpr hreach).1
    · rw [examineOne_idle (mt hreaches.mp hidle)]
  · rw [BitVec.testBit_toNat, examineEach_fired allTriggers_nodup]
    simp only [BitVec.getLsbD_zero, Bool.false_eq_true, false_or, mem_allTriggers, true_and]
    rfl

theorem State.movePlant_frame (old : Nat) : (s.movePlant old c).1.plant = some c ∧ (s.movePlant old c).1.runClock = s.runClock := by
  rcases Nat.lt_or_ge c.seconds old with hback | hforward
  · rw [State.movePlant_backward hback]
    exact ⟨rfl, rfl⟩
  · rw [State.movePlant_forward hforward]
    have hframe := (examineEach_touch c.seconds allTriggers (s.moved c, 0#8)).frame
    exact ⟨hframe.plant, hframe.runClock⟩

/-- A trigger that is not ARMED, or whose time lies ahead, keeps what it holds and is not in the set. -/
theorem State.movePlant_unreached (old : Nat) (h : ¬s.reaches c.seconds k) :
    (s.movePlant old c).1.trigger k = s.trigger k ∧ (s.movePlant old c).2.toNat.testBit k.val = false := by
  rcases Nat.lt_or_ge c.seconds old with hback | hforward
  · rw [State.movePlant_backward hback]
    exact ⟨rfl, by simp⟩
  · rw [State.movePlant_forward hforward]
    obtain ⟨before, after, hsplit⟩ := List.append_of_mem (mem_allTriggers k)
    have hnodup := hsplit ▸ allTriggers_nodup
    obtain ⟨_, hafter, hdisjoint⟩ := List.nodup_append.mp hnodup
    have hbefore : k ∉ before := fun hk => hdisjoint k hk k List.mem_cons_self rfl
    refine ⟨?_, ?_⟩
    · have htrigger : (examineEach c.seconds before (s.moved c, 0#8)).1.trigger k = s.trigger k := examineEach_trigger hbefore _
      have hstep : examineEach c.seconds allTriggers (s.moved c, 0#8)
          = examineEach c.seconds after (examineEach c.seconds before (s.moved c, 0#8)) := by
        rw [hsplit, examineEach_append]
        exact congrArg (examineEach c.seconds after ·) (examineOne_idle (mt (State.reaches_congr htrigger).mp h))
      rw [hstep, examineEach_trigger (List.nodup_cons.mp hafter).1, htrigger]
    · rw [BitVec.testBit_toNat, Bool.eq_false_iff, Ne, examineEach_fired allTriggers_nodup]
      rintro (hbit | ⟨_, hreach⟩)
      · simp at hbit
      · exact h hreach

/-- A trigger that a move forward has reached. -/
theorem State.movePlant_reached {old : Nat} (hforward : old ≤ c.seconds) (hs : (s.moved c).standsAt c) (h : s.reaches c.seconds k) :
    (s.movePlant old c).2.toNat.testBit k.val = true ∧ (s.movePlant old c).1.attention.flags.clock = true
      ∧ (s.movePlant old c).1.trigger k
        = (s.trigger k).fired c.seconds (some { seconds := c.seconds, hundredths := (s.runClock - c.boundary).toNat }) := by
  rw [State.movePlant_forward hforward]
  obtain ⟨hclock, hfired⟩ := examineEach_expired (a := (s.moved c, 0#8)) allTriggers_nodup hs (mem_allTriggers k) h
  refine ⟨?_, hclock, hfired.trans (congrArg _ hs.plantTime)⟩
  rw [BitVec.testBit_toNat, examineEach_fired allTriggers_nodup]
  exact .inr ⟨mem_allTriggers k, h⟩

theorem State.movePlant_movedForward {old : Nat} (hforward : old ≤ c.seconds) (hs : (s.moved c).standsAt c) :
    s.movedForward (s.movePlant old c).1 c (s.movePlant old c).2.toNat := by
  rw [State.movePlant_forward hforward]
  exact State.examine_movedForward hs

end

/-- After its expiry a trigger is SPENT, or ARMED for a time past the plant seconds. -/
theorem Trigger.fired_state {t : Trigger} {seconds : Nat} (harmed : t.state = .armed) (htime : t.time ≤ seconds) (at_ : Option PlantTime) :
    (t.fired seconds at_).lastFired = at_
      ∧ ((t.fired seconds at_).state = .spent ∨ ((t.fired seconds at_).state = .armed ∧ seconds < (t.fired seconds at_).time)) := by
  rw [Trigger.fired_eq t seconds at_ _ _ rfl (fun _ => rfl) harmed]
  refine ⟨rfl, ?_⟩
  dsimp only
  split
  · exact .inl rfl
  case isFalse hnext =>
    have hinterval : 0 < t.interval := Nat.pos_of_ne_zero fun hzero => hnext (.inl hzero)
    refine .inr ⟨rfl, ?_⟩
    rw [Trigger.skippedAt_eq, if_neg (Nat.ne_of_gt hinterval)]
    exact (nextTime_bounds hinterval htime).1

/-! ## The two requests -/

section
variable {p : List Byte} {s : State} {c : PlantClock}

/-- What LOAD_CLOCK moves the clock to. -/
def loadTarget (p : List Byte) (now : Tick) : PlantClock := { seconds := u32 p 0, boundary := now }

theorem loadTarget_standsAt (p : List Byte) (s : State) : (s.moved (loadTarget p s.runClock)).standsAt (loadTarget p s.runClock) := by
  refine State.moved_standsAt ?_ (Nat.le_of_lt_succ (u32_lt p 0))
  simp [loadTarget]

theorem loadClock_unset (h : s.plantNow = none) : loadClock p s = (s.moved (loadTarget p s.runClock), .ok (enc1 0)) := by
  simp only [loadClock, h]
  rfl

theorem loadClock_set (h : s.plantNow = some c) : loadClock p s =
    ((s.movePlant c.seconds (loadTarget p s.runClock)).1, .ok (enc1 (s.movePlant c.seconds (loadTarget p s.runClock)).2.toNat)) := by
  simp only [loadClock, h]
  rfl

theorem stepClock_badOffset (h : s32 p 0 < -604800 ∨ 604800 < s32 p 0) : stepClock p s = (s, .badValue) := by
  rw [stepClock, if_pos h]

theorem stepClock_unset (hlow : -604800 ≤ s32 p 0) (hhigh : s32 p 0 ≤ 604800) (h : s.plantNow = none) :
    stepClock p s = (s, .refuse .clockUnset) := by
  have hoffset : ¬(s32 p 0 < -604800 ∨ 604800 < s32 p 0) := by omega
  simp only [stepClock, if_neg hoffset, h]

theorem stepClock_badTarget (hlow : -604800 ≤ s32 p 0) (hhigh : s32 p 0 ≤ 604800) (h : s.plantNow = some c)
    (hbad : (c.seconds : Int) + s32 p 0 < 0 ∨ 4294967295 < (c.seconds : Int) + s32 p 0) : stepClock p s = (s, .badValue) := by
  have hoffset : ¬(s32 p 0 < -604800 ∨ 604800 < s32 p 0) := by omega
  simp only [stepClock, if_neg hoffset, h, if_pos hbad]

/-- What STEP_CLOCK moves the clock to. -/
def stepTarget (p : List Byte) (c : PlantClock) : PlantClock := { seconds := ((c.seconds : Int) + s32 p 0).toNat, boundary := c.boundary }

theorem stepClock_inRange (hlow : -604800 ≤ s32 p 0) (hhigh : s32 p 0 ≤ 604800) (h : s.plantNow = some c)
    (hfrom : 0 ≤ (c.seconds : Int) + s32 p 0) (hto : (c.seconds : Int) + s32 p 0 ≤ 4294967295) : stepClock p s =
      if s32 p 0 = 0 then (s, .ok (enc1 0))
      else ((s.movePlant c.seconds (stepTarget p c)).1, .ok (enc1 (s.movePlant c.seconds (stepTarget p c)).2.toNat)) := by
  have hoffset : ¬(s32 p 0 < -604800 ∨ 604800 < s32 p 0) := by omega
  have htarget : ¬((c.seconds : Int) + s32 p 0 < 0 ∨ 4294967295 < (c.seconds : Int) + s32 p 0) := by omega
  simp only [stepClock, if_neg hoffset, h, if_neg htarget]
  rfl

theorem stepTarget_standsAt (h : s.plantNow = some c) (hto : (c.seconds : Int) + s32 p 0 ≤ 4294967295) :
    (s.moved (stepTarget p c)).standsAt (stepTarget p c) := by
  obtain ⟨hsecond, _⟩ := plantAt_bounds h
  exact State.moved_standsAt hsecond (Int.toNat_le.mpr hto)

/-- A step by an offset other than 0, within the range. -/
theorem stepClock_moves (h : s.plantNow = some c) (hto : (c.seconds : Int) + s32 p 0 ≤ 4294967295)
    (hfrom : 0 ≤ (c.seconds : Int) + s32 p 0) (m : State × BitVec 8) (hm : m = s.movePlant c.seconds (stepTarget p c)) :
    m.1.plant = some (stepTarget p c) ∧ m.1.runClock = s.runClock
      ∧ (s32 p 0 < 0 → m.2.toNat = 0 ∧ m.1 = { s with plant := m.1.plant })
      ∧ (0 < s32 p 0 → s.movedForward m.1 (stepTarget p c) m.2.toNat) := by
  subst hm
  obtain ⟨hplant, hclock⟩ := State.movePlant_frame (s := s) (c := stepTarget p c) c.seconds
  refine ⟨hplant, hclock, fun hneg => ?_, fun hpos => ?_⟩
  · have hback : (stepTarget p c).seconds < c.seconds := by
      show ((c.seconds : Int) + s32 p 0).toNat < c.seconds
      omega
    rw [State.movePlant_backward hback]
    exact ⟨rfl, rfl⟩
  · have hforward : c.seconds ≤ (stepTarget p c).seconds := by
      show c.seconds ≤ ((c.seconds : Int) + s32 p 0).toNat
      omega
    exact State.movePlant_movedForward hforward (stepTarget_standsAt h hto)

/-- A load that reaches no trigger, or is backward, or sets an unset clock, sets the clock and nothing else. -/
theorem loadClock_idle (h : s.plantNow = none ∨ (∃ c, s.plantNow = some c ∧ u32 p 0 < c.seconds)
    ∨ ∀ k, (s.trigger k).state = .armed → u32 p 0 < (s.trigger k).time) :
    loadClock p s = (s.moved (loadTarget p s.runClock), .ok (enc1 0)) := by
  cases hplant : s.plantNow with
  | none => exact loadClock_unset hplant
  | some c =>
    have hmove : s.movePlant c.seconds (loadTarget p s.runClock) = (s.moved (loadTarget p s.runClock), 0#8) := by
      rcases h with hnone | ⟨d, hd, hback⟩ | hahead
      · rw [hplant] at hnone
        cases hnone
      · rw [hplant] at hd
        injection hd with hd
        subst hd
        exact State.movePlant_backward hback
      · exact State.movePlant_idle fun k ⟨harmed, htime⟩ => Nat.not_le.mpr (hahead k harmed) htime
    rw [loadClock_set hplant, hmove]
    rfl

/-- The triggers after a load, and the set of those that it made expire. -/
theorem loadClock_moves (p : List Byte) (s : State) : ∃ (t : State) (fired : Nat), loadClock p s = (t, .ok (enc1 fired))
    ∧ t.plant = some (loadTarget p s.runClock) ∧ t.runClock = s.runClock
    ∧ (∀ k, ¬s.reaches (u32 p 0) k → t.trigger k = s.trigger k ∧ fired.testBit k.val = false)
    ∧ (∀ c k, s.plantNow = some c → c.seconds ≤ u32 p 0 → s.reaches (u32 p 0) k → fired.testBit k.val = true
      ∧ t.attention.flags.clock = true
      ∧ t.trigger k = (s.trigger k).fired (u32 p 0) (some { seconds := u32 p 0, hundredths := (s.runClock - s.runClock).toNat }))
    ∧ (∀ c, s.plantNow = some c → c.seconds ≤ u32 p 0 → s.movedForward t (loadTarget p s.runClock) fired) := by
  cases hplant : s.plantNow with
  | none =>
    exact ⟨_, 0, loadClock_unset hplant, rfl, rfl, fun k _ => ⟨rfl, by simp⟩, nofun, nofun⟩
  | some c =>
    obtain ⟨hset, hclock⟩ := State.movePlant_frame (s := s) (c := loadTarget p s.runClock) c.seconds
    refine ⟨_, _, loadClock_set hplant, hset, hclock, fun k hk => State.movePlant_unreached c.seconds hk, fun d k hd hforward hk => ?_,
      fun d hd hforward => ?_⟩
    all_goals
      injection hd with hd
      subst hd
    · exact State.movePlant_reached hforward (loadTarget_standsAt p s) hk
    · exact State.movePlant_movedForward hforward (loadTarget_standsAt p s)

end

/-- Settles O21: STEP_CLOCK check by check and then as a move of the clock; LOAD_CLOCK where no trigger is reached, and in full. -/
theorem loadAndStepMoveThePlantClock : Obligations.LoadAndStepMoveThePlantClock := by
  intro s p hready hlen
  refine ⟨fun hbad => exec_of_requestBlock rfl hready (by simp [hlen]) (stepClock_badOffset hbad), fun hlow hhigh => ⟨fun hplant => ?_,
    fun c hplant => ⟨fun hbad => ?_, fun hfrom hto => ⟨fun hzero => ?_, fun hoffset => ?_⟩⟩⟩, fun hidle => ?_, ?_⟩
  · exact exec_of_requestBlock rfl hready (by simp [hlen]) (stepClock_unset hlow hhigh hplant)
  · exact exec_of_requestBlock rfl hready (by simp [hlen]) (stepClock_badTarget hlow hhigh hplant hbad)
  · exact exec_of_requestBlock rfl hready (by simp [hlen]) ((stepClock_inRange hlow hhigh hplant hfrom hto).trans (if_pos hzero))
  · obtain ⟨hset, hclock, hback, hforward⟩ := stepClock_moves hplant hto hfrom _ rfl
    exact ⟨_, _, exec_of_requestBlock rfl hready (by simp [hlen]) ((stepClock_inRange hlow hhigh hplant hfrom hto).trans (if_neg hoffset)),
      hset, hclock, hback, hforward⟩
  · exact exec_of_requestBlock rfl hready (by simp [hlen]) (loadClock_idle hidle)
  · obtain ⟨t, fired, hblock, hset, hclock, hunreached, hreached, hforward⟩ := loadClock_moves p s
    refine ⟨t, fired, exec_of_requestBlock rfl hready (by simp [hlen]) hblock, hset, hclock, fun k hk => hunreached k ?_,
      fun c k hc hload harmed htime => ?_, hforward⟩
    · rintro ⟨harmed, htime⟩
      exact hk.elim (fun h => h harmed) fun h => Nat.not_le.mpr h htime
    · obtain ⟨hbit, hlatched, hfired⟩ := hreached c k hc hload ⟨harmed, htime⟩
      obtain ⟨hlast, hstate⟩ := Trigger.fired_state harmed htime
        (some { seconds := u32 p 0, hundredths := (s.runClock - s.runClock).toNat })
      rw [hfired, hlast]
      exact ⟨hbit, hlatched, by simp, hstate⟩

end Sys2Proof.Machine
end

section
/-! UNMAP_CAUSE and READ_MAP (R48, R49), and the walk (R38–R43) with the order of a line's stations; their two obligations. -/

namespace Sys2Proof.Machine

/-! ## UNMAP_CAUSE and READ_MAP -/

section
variable {p : List Byte} {s : State} {m : List CauseEntry} {e : CauseEntry} {kind : CodeKind}

/-- The entry has the key. -/
def CauseEntry.keyed (q : CauseEntry) (station : Nat) (kind : CodeKind) (code : Nat) : Bool :=
  q.station == station && q.kind == kind && q.code == code

theorem CauseEntry.keyed_iff {q : CauseEntry} {station : Nat} {code : Nat} :
    q.keyed station kind code = true ↔ q.station = station ∧ q.kind = kind ∧ q.code = code := by
  simp [CauseEntry.keyed, and_assoc]

/-- In a sound map the first entry of a key is the only one. -/
theorem causeMapSound.eraseP_eq_filter (hm : causeMapSound m) (he : e ∈ m) :
    m.eraseP (·.sameKey e) = m.filter fun q => !q.keyed e.station e.kind e.code := by
  obtain ⟨before, after, rfl, hother⟩ := hm.exists_split he
  obtain ⟨_, _, hrange⟩ := hm
  have hdistinct : ∀ q ∈ before ++ after, ¬q.sameKey e = true := fun q hq hkey =>
    hother q hq ((CauseEntry.rank_eq_iff (hrange q (mem_append_cons_iff.mpr (.inr hq))) (hrange e he)).mpr hkey)
  have hself : e.sameKey e = true := CauseEntry.sameKey_iff.mpr ⟨rfl, rfl, rfl⟩
  have hkeep : (before ++ after).filter (fun q => !q.keyed e.station e.kind e.code) = before ++ after :=
    List.filter_eq_self.mpr fun q hq => by
      rw [Bool.not_eq_true', Bool.eq_false_iff, Ne, CauseEntry.keyed_iff, ← CauseEntry.sameKey_iff]
      exact hdistinct q hq
  rw [List.eraseP_append_right _ fun q hq => hdistinct q (List.mem_append_left _ hq), List.eraseP_cons_of_pos (p := fun q => q.sameKey e) (a := e) hself,
    List.filter_append, List.filter_cons_of_neg (by simp [CauseEntry.keyed]), ← List.filter_append, hkeep]

theorem unmapCause_badValue (hkey : causeKey p = none) : unmapCause p s = (s, .badValue) := by simp only [unmapCause, hkey]

theorem unmapCause_notFound (hkey : causeKey p = some (u8 p 0, kind, u8 p 2))
    (hfree : ∀ q ∈ s.causeMap, ¬(q.station = u8 p 0 ∧ q.kind = kind ∧ q.code = u8 p 2)) : unmapCause p s = (s, .refuse .notFound) := by
  simp only [unmapCause, hkey, mapEntry_eq_none_iff.mpr hfree]

theorem unmapCause_ok (hm : causeMapSound s.causeMap) (hkey : causeKey p = some (u8 p 0, kind, u8 p 2)) (he : e ∈ s.causeMap)
    (hheld : e.station = u8 p 0 ∧ e.kind = kind ∧ e.code = u8 p 2) :
    unmapCause p s = ({ s with causeMap := s.causeMap.filter fun q => !q.keyed (u8 p 0) kind (u8 p 2) }, .ok) := by
  have hfound := mapEntry_eq_some hm he hheld
  simp only [unmapCause, hkey, hfound, hm.eraseP_eq_filter he]
  obtain ⟨hstation, hkind, hcode⟩ := hheld
  rw [hstation, hkind, hcode]

theorem readMap_badValue (h : 511 < u16 p 0) : readMap p s = (s, .badValue) := by rw [readMap, if_pos h]

theorem readMap_ok (h : u16 p 0 ≤ 511) : readMap p s = (s, .ok (enc2 s.causeMap.length ++ enc2 (u16 p 0)
    ++ enc1 ((s.causeMap.drop (u16 p 0)).take 32).length ++ ((s.causeMap.drop (u16 p 0)).take 32).flatMap CauseEntry.bytes)) := by
  rw [readMap, if_neg (Nat.not_lt.mpr h), encList, ← List.append_assoc]

end

/-- Settles O26: UNMAP_CAUSE by the key its fields name and whether it is held; READ_MAP by its start, past the entries held or within them. -/
theorem unmapCauseAndReadMap : Obligations.UnmapCauseAndReadMap := by
  refine ⟨fun s p hready hlen hm => ⟨fun kind hstation hkind hcode => ⟨fun hfree => ?_, fun ⟨e, he, hheld⟩ => ?_⟩, fun hbad => ?_⟩,
    fun s p hready hlen => ⟨fun hbad => ?_, fun hrange => ?_, fun hrange hpast => ?_⟩⟩
  · exact exec_of_requestBlock rfl hready (by simp [hlen]) (unmapCause_notFound (causeKey_some hstation hkind hcode) hfree)
  · exact exec_of_requestBlock rfl hready (by simp [hlen]) (unmapCause_ok hm (causeKey_some hstation hkind hcode) he hheld)
  · have hkey : causeKey p = none := by
      rcases hbad with hstation | hkind | hcode
      · exact causeKey_none_of_station hstation
      · exact causeKey_none_of_kind hkind
      · exact causeKey_none_of_code hcode
    exact exec_of_requestBlock rfl hready (by simp [hlen]) (unmapCause_badValue hkey)
  · exact exec_of_requestBlock rfl hready (by simp [hlen]) (readMap_badValue hbad)
  · exact exec_of_requestBlock rfl hready (by simp [hlen]) (readMap_ok hrange)
  · have hnone : s.causeMap.drop (u16 p 0) = [] := List.drop_eq_nil_of_le hpast
    have hblock := readMap_ok (s := s) hrange
    rw [hnone] at hblock
    exact exec_of_requestBlock rfl hready (by simp [hlen]) hblock

/-! ## The walk along the stations (R40, R41) -/

section
variable {m : List CauseEntry} {pass : ReportedState} {atEnd : Nat}

theorem Station.passes_iff {q : Station} : q.passes pass = true ↔ q.linkState = .reporting ∧ q.reported = some pass := by
  simp [Station.passes]

/-- The walk reads the first station that does not pass. -/
theorem walkAlong_stops {near far : List Station} {r : Station} (hnear : ∀ q ∈ near, q.passes pass = true) (hr : ¬r.passes pass = true)
    (last : Station) : walkAlong m pass atEnd last (near ++ r :: far) = readStop m r := by
  induction near generalizing last with
  | nil => rw [List.nil_append, walkAlong, if_neg hr]
  | cons q near ih =>
    rw [List.cons_append, walkAlong, if_pos (hnear q List.mem_cons_self), ih fun x hx => hnear x (List.mem_cons_of_mem q hx)]

/-- With every station passed, the last one read has the built-in cause of the line's end. -/
theorem walkAlong_ends {rs : List Station} (hrs : ∀ q ∈ rs, q.passes pass = true) (last : Station) :
    walkAlong m pass atEnd last rs = builtIn (rs.getLastD last).number atEnd := by
  induction rs generalizing last with
  | nil => rfl
  | cons q rs ih =>
    rw [walkAlong, if_pos (hrs q List.mem_cons_self), ih fun x hx => hrs x (List.mem_cons_of_mem q hx), List.getLastD_cons]

/-- The stations that are not bypassed. -/
def seen (rs : List Station) : List Station := rs.filter fun q => !q.bypassed

theorem seen_append (a b : List Station) : seen (a ++ b) = seen a ++ seen b := List.filter_append ..

theorem seen_cons {r : Station} (hr : r.bypassed = false) (rs : List Station) : seen (r :: rs) = r :: seen rs :=
  List.filter_cons_of_pos (by simp [hr])

/-- Where each station is bypassed or passes, those seen pass. -/
theorem seen_passes {rs : List Station} (h : ∀ q ∈ rs, q.bypassed = true ∨ (q.linkState = .reporting ∧ q.reported = some pass)) :
    ∀ q ∈ seen rs, q.passes pass = true := by
  intro q hq
  obtain ⟨hmem, hseen⟩ := List.mem_filter.mp hq
  refine Station.passes_iff.mpr ((h q hmem).resolve_left fun hbypassed => ?_)
  rw [hbypassed] at hseen
  cases hseen

end

section
variable {m : List CauseEntry} {c : Station} {up down : List Station}

/-- Upstream of the constraint stand the stations of lower position. -/
theorem upstream_eq (hup : ∀ r ∈ up, r.position < c.position) (hdown : ∀ r ∈ down, c.position < r.position) :
    (seen (up ++ c :: down)).filter (fun r => r.position < c.position) = seen up := by
  have hnone : down.filter (fun r => decide (r.position < c.position) && !r.bypassed) = [] :=
    List.filter_eq_nil_iff.mpr fun r hr => by simp [Nat.not_lt.mpr (Nat.le_of_lt (hdown r hr))]
  rw [seen, List.filter_filter, List.filter_append, List.filter_cons_of_neg (by simp), hnone, List.append_nil]
  exact List.filter_congr fun r hr => by simp [hup r hr]

theorem downstream_eq (hup : ∀ r ∈ up, r.position < c.position) (hdown : ∀ r ∈ down, c.position < r.position) :
    (seen (up ++ c :: down)).filter (fun r => c.position < r.position) = seen down := by
  have hnone : up.filter (fun r => decide (c.position < r.position) && !r.bypassed) = [] :=
    List.filter_eq_nil_iff.mpr fun r hr => by simp [Nat.not_lt.mpr (Nat.le_of_lt (hup r hr))]
  rw [seen, List.filter_filter, List.filter_append, List.filter_cons_of_neg (by simp), hnone, List.nil_append]
  exact List.filter_congr fun r hr => by simp [hdown r hr]

theorem walkFrom_starved (hup : ∀ r ∈ up, r.position < c.position) (hdown : ∀ r ∈ down, c.position < r.position)
    (hlink : c.linkState = .reporting) (hstate : c.reported = some .starved) :
    walkFrom m (up ++ c :: down) c = walkAlong m .starved 251 c (seen up).reverse := by
  rw [← upstream_eq hup hdown]
  simp only [walkFrom, hlink, hstate]
  rfl

theorem walkFrom_blocked (hup : ∀ r ∈ up, r.position < c.position) (hdown : ∀ r ∈ down, c.position < r.position)
    (hlink : c.linkState = .reporting) (hstate : c.reported = some .blocked) :
    walkFrom m (up ++ c :: down) c = walkAlong m .blocked 252 c (seen down) := by
  rw [← downstream_eq hup hdown]
  simp only [walkFrom, hlink, hstate]
  rfl

theorem walkFrom_self (h : ¬(c.linkState = .reporting ∧ (c.reported = some .starved ∨ c.reported = some .blocked))) (rs : List Station) :
    walkFrom m rs c = readStop m c := by
  unfold walkFrom
  dsimp only
  split
  case h_1 hlink hstate => exact absurd ⟨hlink, .inl hstate⟩ h
  case h_2 hlink hstate => exact absurd ⟨hlink, .inr hstate⟩ h
  case h_3 => rfl

/-- The walk from a STARVED constraint to its stop. -/
theorem walkFrom_starved_stops (hup : ∀ r ∈ up, r.position < c.position) (hdown : ∀ r ∈ down, c.position < r.position)
    (hlink : c.linkState = .reporting) (hstate : c.reported = some .starved) {far near : List Station} {r : Station}
    (hsplit : up = far ++ r :: near) (hnear : ∀ q ∈ near, q.bypassed = true ∨ (q.linkState = .reporting ∧ q.reported = some .starved))
    (hseen : r.bypassed = false) (hr : ¬(r.linkState = .reporting ∧ r.reported = some .starved)) :
    walkFrom m (up ++ c :: down) c = readStop m r := by
  have hpath : (seen up).reverse = (seen near).reverse ++ r :: (seen far).reverse := by
    rw [hsplit, seen_append, seen_cons hseen, List.reverse_append, List.reverse_cons, List.append_assoc]
    rfl
  rw [walkFrom_starved hup hdown hlink hstate, hpath]
  exact walkAlong_stops (fun q hq => seen_passes hnear q (List.mem_reverse.mp hq)) (mt Station.passes_iff.mp hr) c

/-- The walk from a BLOCKED constraint to its stop. -/
theorem walkFrom_blocked_stops (hup : ∀ r ∈ up, r.position < c.position) (hdown : ∀ r ∈ down, c.position < r.position)
    (hlink : c.linkState = .reporting) (hstate : c.reported = some .blocked) {far near : List Station} {r : Station}
    (hsplit : down = near ++ r :: far) (hnear : ∀ q ∈ near, q.bypassed = true ∨ (q.linkState = .reporting ∧ q.reported = some .blocked))
    (hseen : r.bypassed = false) (hr : ¬(r.linkState = .reporting ∧ r.reported = some .blocked)) :
    walkFrom m (up ++ c :: down) c = readStop m r := by
  rw [walkFrom_blocked hup hdown hlink hstate, hsplit, seen_append, seen_cons hseen]
  exact walkAlong_stops (seen_passes hnear) (mt Station.passes_iff.mp hr) c

end

/-! ## What is read where a walk stops (R40, R42) -/

section
variable {m : List CauseEntry} {r : Station}

theorem readStop_unseen (h : r.linkState ≠ .reporting) : readStop m r = { station := r.number, cause := 253, cls := .unassigned } := by
  cases hlink : r.linkState with
  | reporting => exact absurd hlink h
  | unknown | silent =>
    simp only [readStop, hlink]
    rfl

/-- The built-in cause of a reported state that is neither looked up nor absent. -/
theorem readStop_builtIn (hlink : r.linkState = .reporting) {st : ReportedState} (hst : r.reported = some st) (hfault : st ≠ .fault)
    (hoperator : st ≠ .operatorStop) : readStop m r = builtIn r.number (match st with
      | .run => 250 | .off => 247 | .changeover => 254 | .starved | .blocked => 246 | .fault | .operatorStop => 253) := by
  cases st with
  | fault => exact absurd rfl hfault
  | operatorStop => exact absurd rfl hoperator
  | _ => simp only [readStop, hlink, hst]

end

/-! ## The stations of a line or a link by their place (R4, R146) -/

/-- The stations of a selection, in ascending order of a key from 1 to `n`. -/
def byKey (stations : List Station) (sel : Station → Bool) (key : Station → Nat) (n : Nat) : List Station :=
  (List.range' 1 n).filterMap fun a => stations.find? fun r => sel r && key r == a

section
variable {stations : List Station} {sel : Station → Bool} {key : Station → Nat} {n : Nat}

theorem find_keyed {a : Nat} {r : Station} (h : stations.find? (fun r => sel r && key r == a) = some r) :
    r ∈ stations ∧ sel r = true ∧ key r = a := by
  have hkey := List.find?_some h
  simp only [Bool.and_eq_true, beq_iff_eq] at hkey
  exact ⟨List.mem_of_find?_eq_some h, hkey⟩

theorem byKey_ascending (stations : List Station) (sel : Station → Bool) (key : Station → Nat) (n : Nat) :
    (byKey stations sel key n).Pairwise fun a b => key a < key b := by
  refine List.pairwise_filterMap.mpr ((List.pairwise_lt_range' 1).imp fun {a b} hab r hr q hq => ?_)
  obtain ⟨_, _, hra⟩ := find_keyed hr
  obtain ⟨_, _, hqb⟩ := find_keyed hq
  rwa [hra, hqb]

theorem mem_byKey (hrange : ∀ r ∈ stations, 1 ≤ key r ∧ key r ≤ n)
    (hunique : ∀ r ∈ stations, ∀ q ∈ stations, sel r = true → sel q = true → key r = key q → r = q) {r : Station} :
    r ∈ byKey stations sel key n ↔ r ∈ stations ∧ sel r = true := by
  constructor
  · intro hr
    obtain ⟨a, _, ha⟩ := List.mem_filterMap.mp hr
    obtain ⟨hmem, hsel, _⟩ := find_keyed ha
    exact ⟨hmem, hsel⟩
  · rintro ⟨hmem, hsel⟩
    refine List.mem_filterMap.mpr ⟨key r, List.mem_range'_1.mpr ?_, ?_⟩
    · have := hrange r hmem
      omega
    · have hne : stations.find? (fun q => sel q && key q == key r) ≠ none := fun hnone => by
        have := List.find?_eq_none.mp hnone r hmem
        simp [hsel] at this
      obtain ⟨q, hq⟩ := Option.ne_none_iff_exists'.mp hne
      obtain ⟨hqmem, hqsel, hqkey⟩ := find_keyed hq
      rw [hq, hunique q hqmem r hmem hqsel hsel hqkey]

end

/-- In a sound enrollment two records that are not the same share no identity. -/
theorem State.enrollmentSound.apart {s : State} (hs : s.enrollmentSound) {r q : Station} (hr : r ∈ s.stations) (hq : q ∈ s.stations) :
    r = q ∨ r.apart q := by
  obtain ⟨hapart, _⟩ := hs
  obtain ⟨before, after, hsplit, hother⟩ := exists_split_apart hapart hq
  rw [hsplit] at hr
  exact (mem_append_cons_iff.mp hr).imp_right (hother r)

theorem State.lineStations_ascending (s : State) (l : Fin 8) :
    (lineStations s.stations l).Pairwise fun a b => a.position < b.position :=
  byKey_ascending s.stations (·.line == l) (·.position) 16

theorem State.mem_lineStations {s : State} (hs : s.enrollmentSound) {l : Fin 8} {r : Station} :
    r ∈ lineStations s.stations l ↔ r ∈ s.stations ∧ r.line = l := by
  have hmem : r ∈ byKey s.stations (·.line == l) (·.position) 16 ↔ r ∈ s.stations ∧ (r.line == l) = true := by
    refine mem_byKey (fun r hr => ?_) fun r hr q hq hrl hql hposition => (hs.apart hr hq).resolve_right fun happart => ?_
    · obtain ⟨_, _, hrecords, _⟩ := hs
      obtain ⟨⟨_, _, _, hlow, hhigh, _⟩, _⟩ := hrecords r hr
      exact ⟨hlow, hhigh⟩
    · obtain ⟨_, _, hplaces⟩ := happart
      exact hplaces ⟨(beq_iff_eq.mp hrl).trans (beq_iff_eq.mp hql).symm, hposition⟩
  rwa [beq_iff_eq] at hmem

theorem State.walk_constraint {s : State} {l : Fin 8} {c : Station} (h : s.constraint? l = some c) :
    s.walk l = walkFrom s.causeMap (lineStations s.stations l) c := by
  simp only [State.walk, h]

/-- Settles O28: a walk by the constraint's state and by where it stops; what is read there; the line's walk and the order of its stations. -/
theorem walkStopsAtTheFirstStationThatDiffers : Obligations.WalkStopsAtTheFirstStationThatDiffers := by
  refine ⟨fun m c up down hup hdown => ⟨fun hlink hstate => ⟨fun far r near hsplit hnear hseen hr => ?_, fun hall => ?_⟩,
      fun hlink hstate => ⟨fun near r far hsplit hnear hseen hr => ?_, fun hall => ?_⟩, fun h => walkFrom_self h _⟩,
    fun m r => ⟨readStop_unseen, fun hlink => ⟨fun h => readStop_builtIn hlink h nofun nofun, fun h => readStop_builtIn hlink h nofun nofun,
      fun h => readStop_builtIn hlink h nofun nofun, fun h => ?_, fun h => readStop_fault hlink h, fun h hreason =>
        readStop_operatorStop hlink h hreason⟩⟩,
    fun s l => ⟨fun c => State.walk_constraint, fun hs => ⟨s.lineStations_ascending l, fun r => State.mem_lineStations hs⟩⟩⟩
  · exact walkFrom_starved_stops hup hdown hlink hstate hsplit hnear hseen hr
  · rw [walkFrom_starved hup hdown hlink hstate, walkAlong_ends fun q hq => seen_passes hall q (List.mem_reverse.mp hq),
      List.getLastD_eq_getLast?, List.getLast?_reverse, ← List.headD_eq_head?_getD]
    rfl
  · exact walkFrom_blocked_stops hup hdown hlink hstate hsplit hnear hseen hr
  · rw [walkFrom_blocked hup hdown hlink hstate, walkAlong_ends (seen_passes hall)]
    rfl
  · rcases h with h | h
    · exact readStop_builtIn hlink h nofun nofun
    · exact readStop_builtIn hlink h nofun nofun

end Sys2Proof.Machine
end

section
/-! DEFINE_LINE, ENROLL_STATION and BYPASS_STATION (R1, R3, R6), block by block, and the three obligations about them. -/

namespace Sys2Proof.Machine

/-! ## DEFINE_LINE -/

section
variable {p : List Byte} {s : State} {l : Fin 8}

theorem defineLine_monitoring (hm : s.partState = .monitoring) : defineLine p s = (s, .refuse .wrongState) := by
  simp only [defineLine, hm]

theorem defineLine_badLine (hc : s.partState = .configuring) (hl : 7 < u8 p 0) : defineLine p s = (s, .badValue 1) := by
  simp only [defineLine, hc, lineNo_none hl]

/-- What DEFINE_LINE leaves and answers for a definition, by the first field that fails. -/
def State.defineAnswer (s : State) (l : Fin 8) (d : LineDef) : Option Nat → State
  | some field => s.respond 0x01#8 (.badValue field)
  | none => (s.setLine l (some (Line.defined d))).respond 0x01#8 .ok

theorem exec_defineLine (hready : s.ready) (hlen : p.length = 3 ∨ p.length = 19) (hc : s.partState = .configuring) (hl : u8 p 0 = l.val) :
    exec (.defineLine p) s = .next (s.defineAnswer l (lineDefOf p) (lineDefOf p).failing) := by
  have hform : p.length ∈ [3, 19] := by simpa using hlen
  cases hfailing : (lineDefOf p).failing with
  | some field =>
    have hblock : defineLine p s = (s, .badValue field) := by simp only [defineLine, hc, lineNo_val hl, hfailing]
    exact exec_of_requestBlock rfl hready hform hblock
  | none =>
    have hblock : defineLine p s = (s.setLine l (some (Line.defined (lineDefOf p))), .ok) := by
      simp only [defineLine, hc, lineNo_val hl, hfailing]
    exact exec_of_requestBlock rfl hready hform hblock

/-- The short form's definition. -/
theorem lineDefOf_short (h : p.length = 3) : lineDefOf p =
    { initialProduct := u16 p 1, promotion := 3000, longStop := 90000, confirmation := 1000, windowSeconds := 15
      declarePct := 90, clearPct := 95, declareWindows := 3, clearWindows := 2, nominalRate := 0 } := if_pos h

/-- The full form's definition, its times in Run Clock ticks. -/
theorem lineDefOf_full (h : p.length = 19) : lineDefOf p =
    { initialProduct := u16 p 1, promotion := 100 * u16 p 3, longStop := 100 * u32 p 5, confirmation := 100 * u8 p 9
      windowSeconds := u8 p 10, declarePct := u8 p 11, clearPct := u8 p 12, declareWindows := u8 p 13, clearWindows := u8 p 14
      nominalRate := u32 p 15 } := if_neg (by omega)

/-- The full form's first failing field, its times in seconds as the payload carries them. -/
theorem lineDefOf_failing (h : p.length = 19) : (lineDefOf p).failing =
    if u16 p 3 < 5 ∨ 600 < u16 p 3 then some 3
    else if u32 p 5 ≠ 0 ∧ (u32 p 5 < 60 ∨ 86400 < u32 p 5) then some 4
    else if 120 < u8 p 9 then some 5
    else if u8 p 10 < 5 ∨ 120 < u8 p 10 then some 6
    else if u8 p 11 < 50 ∨ 99 < u8 p 11 then some 7
    else if u8 p 12 < 51 ∨ 100 < u8 p 12 then some 8
    else if u8 p 13 < 1 ∨ 16 < u8 p 13 then some 9
    else if u8 p 14 < 1 ∨ 16 < u8 p 14 then some 10
    else if 120000 < u32 p 15 then some 11
    else if u32 p 5 ≠ 0 ∧ u32 p 5 ≤ u16 p 3 then some 4
    else if u8 p 12 ≤ u8 p 11 then some 8
    else none := by
  have hpromotion : (100 * u16 p 3 < 500 ∨ 60000 < 100 * u16 p 3) ↔ (u16 p 3 < 5 ∨ 600 < u16 p 3) := by omega
  have hlongStop : (100 * u32 p 5 ≠ 0 ∧ (100 * u32 p 5 < 6000 ∨ 8640000 < 100 * u32 p 5)) ↔
      (u32 p 5 ≠ 0 ∧ (u32 p 5 < 60 ∨ 86400 < u32 p 5)) := by omega
  have hconfirmation : 12000 < 100 * u8 p 9 ↔ 120 < u8 p 9 := by omega
  have hboth : (100 * u32 p 5 ≠ 0 ∧ 100 * u32 p 5 ≤ 100 * u16 p 3) ↔ (u32 p 5 ≠ 0 ∧ u32 p 5 ≤ u16 p 3) := by omega
  rw [lineDefOf_full h]
  simp only [LineDef.failing, hpromotion, hlongStop, hconfirmation, hboth]

end

/-- Settles O30: the checks of DEFINE_LINE; in the full form the first field that fails, in the units of the payload, or the definition made. -/
theorem defineLineDefinesTheLine : Obligations.DefineLineDefinesTheLine := by
  intro s p hready hlen
  have hform : p.length ∈ [3, 19] := by simpa using hlen
  refine ⟨fun hm => ?_, fun hc hl => ?_, fun hc l hl => ⟨fun hshort => ?_, fun hfull => ?_⟩⟩
  · exact exec_of_requestBlock rfl hready hform (defineLine_monitoring hm)
  · exact exec_of_requestBlock rfl hready hform (defineLine_badLine hc hl)
  · rw [exec_defineLine hready hlen hc hl, lineDefOf_short hshort]
    rfl
  · rw [exec_defineLine hready hlen hc hl, lineDefOf_failing hfull, lineDefOf_full hfull]
    simp only [apply_ite (s.defineAnswer l _)]
    rfl

/-! ## ENROLL_STATION -/

section
variable {p : List Byte} {s : State} {k : Fin 4} {l : Fin 8}

theorem enrollInRange_iff : enrollInRange p = true ↔
    u8 p 0 ≤ 95 ∧ (1 ≤ u8 p 2 ∧ u8 p 2 ≤ 31) ∧ (1 ≤ u8 p 4 ∧ u8 p 4 ≤ 16) ∧ u8 p 5 ≤ 3 ∧ (1 ≤ u32 p 6 ∧ u32 p 6 ≤ 120000) := by
  simp [enrollInRange, and_assoc]

theorem enrollStation_monitoring (hm : s.partState = .monitoring) : enrollStation p s = (s, .refuse .wrongState) := by
  simp only [enrollStation, hm]

theorem enrollStation_badValue (hc : s.partState = .configuring) (hbad : 3 < u8 p 1 ∨ 7 < u8 p 3 ∨ enrollInRange p = false) :
    enrollStation p s = (s, .badValue) := by
  simp only [enrollStation, hc]
  split
  case h_1 k l hk hl hrange =>
    rcases hbad with hlink | hline | hout
    · rw [linkNo_none hlink] at hk
      cases hk
    · rw [lineNo_none hline] at hl
      cases hl
    · rw [hout] at hrange
      cases hrange
  case h_2 => rfl

/-- The record that the payload enrolls. -/
def enrolledBy (p : List Byte) (k : Fin 4) (l : Fin 8) : Station :=
  Station.enrolled (u8 p 0) k (u8 p 2) l (u8 p 4) (u8 p 5) (u32 p 6)

/-- The payload's fields are in range, and name a link and a line. -/
def enrollsOn (p : List Byte) (k : Fin 4) (l : Fin 8) : Prop := u8 p 1 = k.val ∧ u8 p 3 = l.val ∧ enrollInRange p = true

theorem enrollStation_notFound (hc : s.partState = .configuring) (h : enrollsOn p k l) (hline : s.line? l = none) :
    enrollStation p s = (s, .refuse .notFound) := by
  obtain ⟨hk, hl, hrange⟩ := h
  simp only [enrollStation, hc, linkNo_val hk, lineNo_val hl, hrange, hline]

theorem enrollStation_duplicate (hc : s.partState = .configuring) (h : enrollsOn p k l) (hline : (s.line? l).isSome) {which : Nat}
    (hheld : collision s.stations (enrolledBy p k l) = some which) :
    enrollStation p s = (s, { result := .duplicate, payload := enc1 which }) := by
  obtain ⟨hk, hl, hrange⟩ := h
  obtain ⟨ln, hln⟩ := Option.isSome_iff_exists.mp hline
  unfold enrolledBy at hheld
  simp only [enrollStation, hc, linkNo_val hk, lineNo_val hl, hrange, hln, hheld]

theorem enrollStation_free (hc : s.partState = .configuring) (h : enrollsOn p k l) (hline : (s.line? l).isSome)
    (hfree : collision s.stations (enrolledBy p k l) = none) : enrollStation p s =
      if 24 ≤ enrolledOn s.stations k then (s, .refuse .full)
      else ({ s with stations := insertStation (enrolledBy p k l) s.stations }, .ok) := by
  obtain ⟨hk, hl, hrange⟩ := h
  obtain ⟨ln, hln⟩ := Option.isSome_iff_exists.mp hline
  unfold enrolledBy at hfree
  simp only [enrollStation, hc, linkNo_val hk, lineNo_val hl, hrange, hln, hfree]
  rfl

end

section
variable {rs : List Station} {r : Station}

theorem collision_number (h : ∃ q ∈ rs, q.number = r.number) : collision rs r = some 1 := if_pos (by simpa using h)

theorem collision_address (hnumber : ∀ q ∈ rs, q.number ≠ r.number) (h : ∃ q ∈ rs, q.link = r.link ∧ q.address = r.address) :
    collision rs r = some 2 := by
  rw [collision, if_neg (by simpa using hnumber), if_pos (by simpa using h)]

theorem collision_place (hnumber : ∀ q ∈ rs, q.number ≠ r.number) (haddress : ∀ q ∈ rs, ¬(q.link = r.link ∧ q.address = r.address))
    (h : ∃ q ∈ rs, q.line = r.line ∧ q.position = r.position) : collision rs r = some 3 := by
  rw [collision, if_neg (by simpa using hnumber), if_neg (by simpa using haddress), if_pos (by simpa using h)]

theorem collision_free (hnumber : ∀ q ∈ rs, q.number ≠ r.number) (haddress : ∀ q ∈ rs, ¬(q.link = r.link ∧ q.address = r.address))
    (hplace : ∀ q ∈ rs, ¬(q.line = r.line ∧ q.position = r.position)) : collision rs r = none := by
  rw [collision, if_neg (by simpa using hnumber), if_neg (by simpa using haddress), if_neg (by simpa using hplace)]

end

/-- Settles O32: the checks of ENROLL_STATION, the collision found by the first identity that is held, and the record put in its place. -/
theorem enrollStationCreatesARecord : Obligations.EnrollStationCreatesARecord := by
  intro s p hready hlen
  have hform : p.length ∈ [10] := by simp [hlen]
  refine ⟨fun hm => ?_, fun hc => ⟨fun hbad => ?_, fun k l hnumber hk haddr haddr' hl hpos hpos' hroles hrate hrate' => ?_⟩⟩
  · exact exec_of_requestBlock rfl hready hform (enrollStation_monitoring hm)
  · have hblock : 3 < u8 p 1 ∨ 7 < u8 p 3 ∨ enrollInRange p = false := by
      rw [← Bool.not_eq_true, enrollInRange_iff]
      omega
    exact exec_of_requestBlock rfl hready hform (enrollStation_badValue hc hblock)
  have hon : enrollsOn p k l :=
    ⟨hk, hl, enrollInRange_iff.mpr ⟨hnumber, ⟨haddr, haddr'⟩, ⟨hpos, hpos'⟩, hroles, hrate, hrate'⟩⟩
  have refused : (s.line? l).isSome → ∀ which, collision s.stations (enrolledBy p k l) = some which →
      exec (.enrollStation p) s = .next (s.respond 0x03#8 { result := .duplicate, payload := enc1 which }) := fun hdef which hheld =>
    exec_of_requestBlock rfl hready hform (enrollStation_duplicate hc hon hdef hheld)
  refine ⟨fun hnone => ?_, fun hdef => ⟨fun hheld => ?_, fun hfree => ⟨fun hheld => ?_, fun hfree' => ⟨fun hheld => ?_, fun hfree'' =>
    ⟨fun hfull => ?_, fun hroom => ?_⟩⟩⟩⟩⟩
  · exact exec_of_requestBlock rfl hready hform (enrollStation_notFound hc hon hnone)
  · exact refused hdef 1 (collision_number hheld)
  · exact refused hdef 2 (collision_address hfree hheld)
  · exact refused hdef 3 (collision_place hfree hfree' hheld)
  all_goals
    have hblock := enrollStation_free hc hon hdef (collision_free hfree hfree' hfree'')
  · rw [if_pos hfull] at hblock
    exact exec_of_requestBlock rfl hready hform hblock
  · rw [if_neg (Nat.not_le.mpr hroom)] at hblock
    exact exec_of_requestBlock rfl hready hform hblock

/-! ## A record changed in the table -/

section
variable {s : State} {n : Nat} {r : Station}

theorem find_modifyFirst_same {α : Type} {f : α → Bool} {g : α → α} {as : List α} {a : α} (h : as.find? f = some a) (hg : f (g a) = true) :
    (modifyFirst f g as).find? f = some (g a) := by
  induction as with
  | nil => cases h
  | cons b as ih =>
    by_cases hb : f b = true
    · rw [List.find?_cons_of_pos hb] at h
      cases h
      rw [modifyFirst, if_pos hb, List.find?_cons_of_pos hg]
    · rw [List.find?_cons_of_neg hb] at h
      rw [modifyFirst, if_neg hb, List.find?_cons_of_neg hb, ih h]

theorem find_modifyFirst_other {α : Type} {f g : α → Bool} {h : α → α} {as : List α} (hold : ∀ a, f a = true → g a = false)
    (hnew : ∀ a, f a = true → g (h a) = false) : (modifyFirst f h as).find? g = as.find? g := by
  induction as with
  | nil => rfl
  | cons b as ih =>
    by_cases hb : f b = true
    · rw [modifyFirst, if_pos hb, List.find?_cons_of_neg (by simp [hnew b hb]), List.find?_cons_of_neg (by simp [hold b hb])]
    · rw [modifyFirst, if_neg hb]
      simp only [List.find?_cons, ih]

/-- The record changed is the one found. -/
theorem State.updStation_station?_same (h : s.station? n = some r) {f : Station → Station} (hf : (f r).number = n) :
    (s.updStation n f).station? n = some (f r) :=
  find_modifyFirst_same (f := fun q : Station => q.number == n) h (beq_iff_eq.mpr hf)

theorem State.updStation_station?_other {m : Nat} (hm : m ≠ n) {f : Station → Station} (hf : ∀ q, (f q).number = q.number) :
    (s.updStation n f).station? m = s.station? m := by
  refine find_modifyFirst_other (fun q hq => ?_) fun q hq => ?_
  · exact beq_false_of_ne fun e => hm (e ▸ beq_iff_eq.mp hq)
  · exact beq_false_of_ne fun e => hm (e ▸ (hf q).symm ▸ beq_iff_eq.mp hq)

end

/-! ## What a walk leaves -/

section
variable {s : State} {l : Fin 8} {ln : Line} {lv : Live}

theorem State.reattribute_stations (st : Stoppage) (root : Root) : (s.reattribute l st root).stations = s.stations := by
  simp [State.reattribute]

theorem State.walkAgain_stations (h : s.onLine l ln lv) : (s.walkAgain l).stations = s.stations := by
  cases hc : lv.condition with
  | candidate c =>
    rw [State.walkAgain_candidate h hc]
    split
    all_goals rfl
  | stopped st =>
    rw [State.walkAgain_stopped h hc]
    split
    · rfl
    · exact State.reattribute_stations ..
  | _ => rw [State.walkAgain_other h (by simp [hc]) (by simp [hc])]

/-- A walk queues a notice only of a STOPPED line. -/
theorem State.walkAgain_quiet (h : s.onLine l ln lv) (hstopped : ∀ st, lv.condition ≠ .stopped st) :
    (s.walkAgain l).journal = s.journal ∧ (s.walkAgain l).attention = s.attention := by
  cases hc : lv.condition with
  | candidate c =>
    rw [State.walkAgain_candidate h hc]
    split
    all_goals exact ⟨rfl, rfl⟩
  | stopped st => exact absurd hc (hstopped st)
  | _ =>
    rw [State.walkAgain_other h (by simp [hc]) hstopped]
    exact ⟨rfl, rfl⟩

theorem State.offerBypass_undefined (h : s.line? l = none) : s.offerBypass l = s := by
  simp only [State.offerBypass, State.withLive, h]

theorem State.offerBypass_notLive (h : s.line? l = some ln) (hlive : ln.live = none) : s.offerBypass l = s := by
  simp only [State.offerBypass, State.withLive, h, hlive]

theorem State.offerBypass_otherMode (h : s.line? l = some ln) (hmode : ln.mode ≠ .scheduled) : s.offerBypass l = s := by
  cases hlive : ln.live with
  | none => exact State.offerBypass_notLive h hlive
  | some lv =>
    rw [State.offerBypass, State.withLive_onLine ⟨h, hlive⟩]
    cases hm : ln.mode with
    | scheduled => exact absurd hm hmode
    | _ => rfl

theorem State.offerBypass_scheduled (h : s.onLine l ln lv) (hmode : ln.mode = .scheduled) : s.offerBypass l = s.walkAgain l := by
  rw [State.offerBypass, State.withLive_onLine h]
  simp only [hmode]

/-- A bypass change's offer does nothing, or is a walk of a live line. -/
theorem State.offerBypass_cases (s : State) (l : Fin 8) :
    s.offerBypass l = s ∨ ∃ ln lv, s.onLine l ln lv ∧ s.offerBypass l = s.walkAgain l := by
  cases hline : s.line? l with
  | none => exact .inl (State.offerBypass_undefined hline)
  | some ln =>
    cases hlive : ln.live with
    | none => exact .inl (State.offerBypass_notLive hline hlive)
    | some lv =>
      by_cases hmode : ln.mode = .scheduled
      · exact .inr ⟨ln, lv, ⟨hline, hlive⟩, State.offerBypass_scheduled ⟨hline, hlive⟩ hmode⟩
      · exact .inl (State.offerBypass_otherMode hline hmode)

theorem State.offerBypass_stations (s : State) (l : Fin 8) : (s.offerBypass l).stations = s.stations := by
  rcases s.offerBypass_cases l with h | ⟨_, _, hon, h⟩
  · rw [h]
  · rw [h, State.walkAgain_stations hon]

theorem State.offerBypass_quiet (h : ∀ lv st, s.live? l = some lv → lv.condition ≠ .stopped st) :
    (s.offerBypass l).journal = s.journal ∧ (s.offerBypass l).attention = s.attention := by
  rcases s.offerBypass_cases l with hsame | ⟨ln, lv, hon, hwalk⟩
  · rw [hsame]
    exact ⟨rfl, rfl⟩
  · rw [hwalk]
    obtain ⟨hline, hlive⟩ := hon
    exact State.walkAgain_quiet ⟨hline, hlive⟩ fun st => h lv st ((State.live?_of_line? hline).trans hlive)

end

/-! ## BYPASS_STATION -/

section
variable {p : List Byte} {s : State} {r : Station}

theorem bypassStation_badValue (h : 95 < u8 p 0 ∨ 1 < u8 p 1) : bypassStation p s = (s, .badValue) := if_pos h

theorem bypassStation_notFound (hn : u8 p 0 ≤ 95) (hflag : u8 p 1 ≤ 1) (h : s.station? (u8 p 0) = none) :
    bypassStation p s = (s, .refuse .notFound) := by
  simp only [bypassStation, if_neg (show ¬(95 < u8 p 0 ∨ 1 < u8 p 1) by omega), h]

theorem bypassStation_enrolled (hn : u8 p 0 ≤ 95) (hflag : u8 p 1 ≤ 1) (h : s.station? (u8 p 0) = some r) : bypassStation p s =
    if u8 p 1 = 1 ∧ r.constraint = true then (s, .badValue)
    else if r.bypassed = (u8 p 1 == 1) then (s, .ok)
    else ((s.updStation (u8 p 0) fun q => { q with bypassed := u8 p 1 == 1 }).offerBypass r.line, .ok) := by
  simp only [bypassStation, if_neg (show ¬(95 < u8 p 0 ∨ 1 < u8 p 1) by omega), h]

end

/-- Settles O33: the answers of BYPASS_STATION; the change sets the one record's flag, and its offer is a walk of a live SCHEDULED line. -/
theorem bypassStationSetsTheFlag : Obligations.BypassStationSetsTheFlag := by
  intro s p hready hlen
  have hform : p.length ∈ [2] := by simp [hlen]
  refine ⟨fun hbad => ?_, fun hn hflag => ⟨fun hnone => ?_, fun r hr => ?_⟩⟩
  · exact exec_of_requestBlock rfl hready hform (bypassStation_badValue hbad)
  · exact exec_of_requestBlock rfl hready hform (bypassStation_notFound hn hflag hnone)
  have hblock := bypassStation_enrolled hn hflag hr
  refine ⟨fun hset hconstraint => ?_, fun hallowed => ⟨fun hsame => ?_, fun hdiffers => ?_⟩⟩
  · rw [if_pos ⟨hset, hconstraint⟩] at hblock
    exact exec_of_requestBlock rfl hready hform hblock
  · rw [if_neg hallowed, if_pos hsame] at hblock
    exact exec_of_requestBlock rfl hready hform hblock
  rw [if_neg hallowed, if_neg hdiffers] at hblock
  have hexec := exec_of_requestBlock (i := .bypassStation p) rfl hready hform hblock
  have hstations := (s.updStation (u8 p 0) fun q => { q with bypassed := u8 p 1 == 1 }).offerBypass_stations r.line
  have htouch : Touch (.ofLine r.line) (s.updStation (u8 p 0) fun q => { q with bypassed := u8 p 1 == 1 })
    ((s.updStation (u8 p 0) fun q => { q with bypassed := u8 p 1 == 1 }).offerBypass r.line) := .offerBypass rfl
  refine ⟨_, hexec, ?_, fun n hne => ?_, htouch.sameBeside, ?_, htouch.links_same (fun _ => id), htouch.triggers_same (fun _ => id),
    htouch.frame.plant, fun hquiet => State.offerBypass_quiet hquiet⟩
  · rw [State.station?, hstations]
    exact State.updStation_station?_same hr (State.station?_number (r := r) hr)
  · rw [State.station?, hstations]
    exact State.updStation_station?_other hne fun _ => rfl
  · rintro u rfl
    refine ⟨fun hnone => State.offerBypass_undefined hnone, fun ln hln hor => ?_, fun ln lv hon hmode => ?_⟩
    · rcases hor with hlive | hmode
      · exact State.offerBypass_notLive hln hlive
      · exact State.offerBypass_otherMode hln hmode
    · have hwalk := State.offerBypass_scheduled (s := s.updStation (u8 p 0) fun q => { q with bypassed := u8 p 1 == 1 }) hon hmode
      rw [hwalk]
      refine ⟨State.walkAgain_walked hon, fun hother => State.walkAgain_other hon ?_ ?_⟩
      all_goals
        rintro _ e
        rw [e] at hother
        simp at hother

end Sys2Proof.Machine
end

section
/-! SET_RATE (R88), SET_LINK (R144), and the records read: READ_STATION, READ_LINE_STATUS and READ_LINK_STATS (R18, R69, R157). -/

namespace Sys2Proof.Machine

/-! ## SET_RATE -/

section
variable {p : List Byte} {s : State} {l : Fin 8} {ln : Line} {lv : Live}

theorem setRate_configuring (hc : s.partState = .configuring) : setRate p s = (s, .refuse .wrongState) := if_pos hc

theorem setRate_badLine (hm : s.partState = .monitoring) (hl : 7 < u8 p 0) : setRate p s = (s, .badValue 1) := by
  simp only [setRate, if_neg (ne_configuring_of_monitoring hm), lineNo_none hl]

theorem setRate_notFound (hm : s.partState = .monitoring) (hl : u8 p 0 = l.val) (h : s.line? l = none) :
    setRate p s = (s, .refuse .notFound) := by
  simp only [setRate, if_neg (ne_configuring_of_monitoring hm), lineNo_val hl, h]

/-- The definition with the three values of a SET_RATE. -/
def LineDef.withRate (d : LineDef) (p : List Byte) : LineDef := { d with nominalRate := u32 p 1, declarePct := u8 p 5, clearPct := u8 p 6 }

theorem setRate_defined (hm : s.partState = .monitoring) (hl : u8 p 0 = l.val) (h : s.line? l = some ln) : setRate p s =
    if 120000 < u32 p 1 then (s, .badValue 11)
    else if u8 p 5 < 50 ∨ 99 < u8 p 5 then (s, .badValue 7)
    else if u8 p 6 < 51 ∨ 100 < u8 p 6 then (s, .badValue 8)
    else if u8 p 6 ≤ u8 p 5 then (s, .badValue 8)
    else (s.setLine l (some { ln with
      defn := ln.defn.withRate p, live := ln.live.map (·.rateChanged (ln.defn.withRate p) s.runClock) }), .ok) := by
  simp only [setRate, if_neg (ne_configuring_of_monitoring hm), lineNo_val hl, h]
  rfl

theorem setRate_badRate (hm : s.partState = .monitoring) (hl : u8 p 0 = l.val) (h : s.line? l = some ln) (hrate : 120000 < u32 p 1) :
    setRate p s = (s, .badValue 11) := by
  rw [setRate_defined hm hl h, if_pos hrate]

theorem setRate_badDeclare (hm : s.partState = .monitoring) (hl : u8 p 0 = l.val) (h : s.line? l = some ln) (hrate : u32 p 1 ≤ 120000)
    (hdeclare : u8 p 5 < 50 ∨ 99 < u8 p 5) : setRate p s = (s, .badValue 7) := by
  rw [setRate_defined hm hl h, if_neg (Nat.not_lt.mpr hrate), if_pos hdeclare]

theorem setRate_badClear (hm : s.partState = .monitoring) (hl : u8 p 0 = l.val) (h : s.line? l = some ln) (hrate : u32 p 1 ≤ 120000)
    (hlow : 50 ≤ u8 p 5) (hhigh : u8 p 5 ≤ 99) (hclear : 100 < u8 p 6 ∨ u8 p 6 ≤ u8 p 5) : setRate p s = (s, .badValue 8) := by
  rw [setRate_defined hm hl h, if_neg (Nat.not_lt.mpr hrate), if_neg (by omega)]
  split
  · rfl
  · exact if_pos (by omega)

theorem setRate_ok (hm : s.partState = .monitoring) (hl : u8 p 0 = l.val) (h : s.onLine l ln lv) (hrate : u32 p 1 ≤ 120000)
    (hlow : 50 ≤ u8 p 5) (hhigh : u8 p 5 ≤ 99) (hclear : u8 p 5 < u8 p 6) (hclear' : u8 p 6 ≤ 100) :
    setRate p s = (s.setLine l (some { ln with
      defn := ln.defn.withRate p, live := some (lv.rateChanged (ln.defn.withRate p) s.runClock) }), .ok) := by
  obtain ⟨hline, hlive⟩ := h
  rw [setRate_defined hm hl hline, if_neg (Nat.not_lt.mpr hrate), if_neg (by omega), if_neg (by omega), if_neg (by omega), hlive,
    Option.map_some]

end

section
variable {lv : Live} {d : LineDef} {now : Tick}

theorem Live.rateChanged_windowRuns (h : lv.rate.window.isSome) : lv.rateChanged d now = lv := by
  obtain ⟨w, hw⟩ := Option.isSome_iff_exists.mp h
  simp only [Live.rateChanged, hw]

theorem Live.rateChanged_otherCondition (h : lv.rate.window = none) (hrate : 0 < d.nominalRate) (hc : lv.condition ≠ .producing) :
    lv.rateChanged d now = lv := by
  cases hcondition : lv.condition with
  | producing => exact absurd hcondition hc
  | _ => simp only [Live.rateChanged, h, if_neg (Nat.pos_iff_ne_zero.mp hrate), hcondition]

theorem Live.rateChanged_producing (h : lv.rate.window = none) (hrate : 0 < d.nominalRate) (hc : lv.condition = .producing) :
    lv.rateChanged d now = { lv with rate := { lv.rate with window := d.startWindow now } } := by
  simp only [Live.rateChanged, h, if_neg (Nat.pos_iff_ne_zero.mp hrate), hc]

theorem LineDef.startWindow_running (hrate : 0 < d.nominalRate) (i : Tick) : d.startWindow i = some
    { start := i, expiry := i + ticks (100 * d.windowSeconds), expected := d.nominalRate * d.windowSeconds / 60
      declarePct := d.declarePct, clearPct := d.clearPct, actual := 0 } := if_neg (Nat.pos_iff_ne_zero.mp hrate)

theorem Live.clearSlow_eq (lv : Live) (now : Tick) : lv.clearSlow now = { lv with
    rate := { lv.rate with slow := false, lowRun := 0, highRun := 0, slowStart := none }
    period := lv.period.chargeSlowTo lv.rate.slowStart now } := by
  cases h : lv.rate.slowStart with
  | _ => simp only [Live.clearSlow, Period.chargeSlowTo, h]

theorem Live.rateChanged_noRate (h : lv.rate.window = none) (hrate : d.nominalRate = 0) : lv.rateChanged d now = lv.clearSlow now := by
  simp only [Live.rateChanged, h, if_pos hrate]

end

/-- Settles O38: the checks of SET_RATE in their order, then the definition's three values and what they do to the line, by its window, the rate
and its condition. -/
theorem setRateChangesTheDefinition : Obligations.SetRateChangesTheDefinition := by
  intro s p hready hlen
  have hform : p.length ∈ [7] := by simp [hlen]
  refine ⟨fun hc => ?_, fun hm hl => ?_, fun hm l hl => ⟨fun hnone => ?_, fun hdef => ?_, fun hrate hlow hhigh hclear hclear' ln lv hon => ?_⟩⟩
  · exact exec_of_requestBlock rfl hready hform (setRate_configuring hc)
  · exact exec_of_requestBlock rfl hready hform (setRate_badLine hm hl)
  · exact exec_of_requestBlock rfl hready hform (setRate_notFound hm hl hnone)
  · obtain ⟨ln, hln⟩ := Option.isSome_iff_exists.mp hdef
    refine ⟨fun hrate => ?_, fun hrate hdeclare => ?_, fun hrate hlow hhigh hclear => ?_⟩
    · exact exec_of_requestBlock rfl hready hform (setRate_badRate hm hl hln hrate)
    · exact exec_of_requestBlock rfl hready hform (setRate_badDeclare hm hl hln hrate hdeclare)
    · exact exec_of_requestBlock rfl hready hform (setRate_badClear hm hl hln hrate hlow hhigh hclear)
  · refine ⟨_, exec_of_requestBlock rfl hready hform (setRate_ok hm hl hon hrate hlow hhigh hclear hclear'),
      Live.rateChanged_windowRuns, Live.rateChanged_otherCondition (d := ln.defn.withRate p), fun hw hpos hc => ?_, fun hw hzero => ?_⟩
    · rw [Live.rateChanged_producing (d := ln.defn.withRate p) hw hpos hc, LineDef.startWindow_running (d := ln.defn.withRate p) hpos]
      rfl
    · rw [Live.rateChanged_noRate (d := ln.defn.withRate p) hw hzero, Live.clearSlow_eq]

/-! ## SET_LINK -/

section
variable {p : List Byte} {s : State} {k : Fin 4}

theorem BitRate.ofBps_bps (rate : BitRate) : BitRate.ofBps rate.bps = some rate := by cases rate <;> rfl

theorem BitRate.ofBps_none {n : Nat} (h1 : n ≠ 62500) (h2 : n ≠ 125000) (h3 : n ≠ 250000) (h4 : n ≠ 500000) : BitRate.ofBps n = none := by
  rw [BitRate.ofBps, if_neg h1, if_neg h2, if_neg h3, if_neg h4]

theorem PolarityMode.ofCode_code (mode : PolarityMode) : PolarityMode.ofCode mode.code = some mode := by cases mode <;> rfl

theorem PolarityMode.ofCode_none {n : Nat} (h : 2 < n) : PolarityMode.ofCode n = none := by
  unfold PolarityMode.ofCode
  split
  case h_4 => rfl
  all_goals omega

theorem setLink_monitoring (hm : s.partState = .monitoring) : setLink p s = (s, .refuse .wrongState) := by simp only [setLink, hm]

theorem setLink_badValue (hc : s.partState = .configuring) {field : Nat} (h : setLinkFailing p = some field) :
    setLink p s = (s, .badValue field) := by
  simp only [setLink, hc, h]

theorem setLinkFailing_link (h : 3 < u8 p 0) : setLinkFailing p = some 1 := if_pos h

theorem setLinkFailing_rate (hk : u8 p 0 = k.val) (h : BitRate.ofBps (u32 p 1) = none) : setLinkFailing p = some 2 := by
  rw [setLinkFailing, if_neg (by omega), if_pos (by rw [h]; rfl)]

section
variable {rate : BitRate} (hk : u8 p 0 = k.val) (hrate : u32 p 1 = rate.bps)
include hk hrate

theorem setLinkFailing_mode (h : 2 < u8 p 5) : setLinkFailing p = some 3 := by
  rw [setLinkFailing, if_neg (by omega), if_neg (by rw [hrate, rate.ofBps_bps]; nofun), if_pos (by rw [PolarityMode.ofCode_none h]; rfl)]

/-- With the link, the bit rate and the polarity mode in range, the three numbers decide. -/
theorem setLinkFailing_numbers {mode : PolarityMode} (hmode : u8 p 5 = mode.code) : setLinkFailing p =
    if u16 p 6 % 10 ≠ 0 ∨ u16 p 6 < 10 ∨ 2000 < u16 p 6 then some 4
    else if u8 p 8 < 2 ∨ 15 < u8 p 8 then some 5
    else if u8 p 9 < 1 ∨ 8 < u8 p 9 then some 6
    else none := by
  rw [setLinkFailing, if_neg (by omega), if_neg (by rw [hrate, rate.ofBps_bps]; nofun), if_neg (by rw [hmode, mode.ofCode_code]; nofun)]

theorem setLink_ok (hc : s.partState = .configuring) {mode : PolarityMode} (hmode : u8 p 5 = mode.code) (h : setLinkFailing p = none) :
    setLink p s = ({ s with links := s.links.set k { s.link k with
      bitRate := rate, polarityMode := mode, pace := u16 p 6 / 10, missThreshold := u8 p 8, returnThreshold := u8 p 9
      polarity := mode.inForce (s.link k).polarity } }, .ok) := by
  unfold setLink
  split
  case h_1 hm =>
    rw [hc] at hm
    cases hm
  case h_2 =>
    simp only [h, linkNo_val hk, hrate, rate.ofBps_bps, hmode, mode.ofCode_code]
    rfl

end

end

/-- Settles O52: the checks of SET_LINK in their order, and the one link set. -/
theorem setLinkReplacesTheSettings : Obligations.SetLinkReplacesTheSettings := by
  intro s p hready hlen
  have hform : p.length ∈ [10] := by simp [hlen]
  have refused : s.partState = .configuring → ∀ field, setLinkFailing p = some field →
      exec (.setLink p) s = .next (s.respond 0x05#8 (.badValue field)) := fun hc field h =>
    exec_of_requestBlock rfl hready hform (setLink_badValue hc h)
  refine ⟨fun hm => ?_, fun hc => ⟨fun hk => refused hc 1 (setLinkFailing_link hk), fun k hk => ⟨fun h1 h2 h3 h4 => ?_, fun rate hrate => ?_⟩⟩⟩
  · exact exec_of_requestBlock rfl hready hform (setLink_monitoring hm)
  · exact refused hc 2 (setLinkFailing_rate hk (BitRate.ofBps_none h1 h2 h3 h4))
  have hbps : u32 p 1 = rate.bps := hrate
  refine ⟨fun hmode => refused hc 3 (setLinkFailing_mode hk hbps hmode), fun mode hmode => ?_⟩
  have hcode : u8 p 5 = mode.code := hmode
  have hfailing := setLinkFailing_numbers hk hbps hcode
  refine ⟨fun hpace => ?_, fun hten hlow hhigh => ⟨fun hmiss => ?_, fun hmiss hmiss' => ⟨fun hreturn => ?_, fun hreturn hreturn' => ?_⟩⟩⟩
  · exact refused hc 4 (hfailing.trans (if_pos hpace))
  all_goals rw [if_neg (show ¬(u16 p 6 % 10 ≠ 0 ∨ u16 p 6 < 10 ∨ 2000 < u16 p 6) by omega)] at hfailing
  · exact refused hc 5 (hfailing.trans (if_pos hmiss))
  all_goals rw [if_neg (show ¬(u8 p 8 < 2 ∨ 15 < u8 p 8) by omega)] at hfailing
  · exact refused hc 6 (hfailing.trans (if_pos hreturn))
  · exact exec_of_requestBlock rfl hready hform (setLink_ok hk hbps hc hcode (hfailing.trans (if_neg (by omega))))

/-! ## The records read -/

section
variable {p : List Byte} {s : State}

theorem readStation_badValue (h : 95 < u8 p 0) : readStation p s = (s, .badValue) := if_pos h

theorem readStation_notFound (hn : u8 p 0 ≤ 95) (h : s.station? (u8 p 0) = none) : readStation p s = (s, .refuse .notFound) := by
  simp only [readStation, if_neg (Nat.not_lt.mpr hn), h]

theorem readStation_ok (hn : u8 p 0 ≤ 95) {r : Station} (h : s.station? (u8 p 0) = some r) {payload : List Byte}
    (hpayload : r.bytes ++ encTick s.runClock = payload) : readStation p s = (s, .ok payload) := by
  simp only [readStation, if_neg (Nat.not_lt.mpr hn), h, hpayload]

/-- A record's bytes, with the fields that a code table or a presence byte spells given by their spellings. -/
theorem Station.bytes_spelled (r : Station) (now : Tick) {link : Nat} {reported baselines : List Byte} (hlink : r.linkState.code = link)
    (hreported : encOpt 1 (fun st : ReportedState => enc1 st.code) r.reported = reported)
    (hbaselines : encOpt 2 (fun c : Counters => enc2 c.infeed.toNat) r.baselines
      ++ encOpt 2 (fun c : Counters => enc2 c.outfeed.toNat) r.baselines
      ++ encOpt 2 (fun c : Counters => enc2 c.reject.toNat) r.baselines = baselines) : r.bytes ++ encTick now =
    enc1 r.number ++ enc1 r.link.val ++ enc1 r.address ++ enc1 r.line.val ++ enc1 r.position
      ++ enc1 (r.constraint.toNat + 2 * r.finish.toNat) ++ enc4 r.maxRate ++ enc1 r.bypassed.toNat ++ enc1 link ++ enc1 r.missRun
      ++ enc1 r.goodRun ++ reported ++ enc1 r.faultCode ++ enc1 r.reasonCode ++ encOpt 4 encTick r.changeInstant
      ++ encOpt 4 encTick r.lastApplied ++ baselines ++ encOpt 4 encTick r.accrualStart ++ encTick now := by
  rw [← hlink, ← hreported, ← hbaselines]
  delta Station.bytes encFlag
  simp only [List.append_assoc]

theorem readLineStatus_badValue (h : 7 < u8 p 0) : readLineStatus p s = (s, .badValue) := by simp only [readLineStatus, lineNo_none h]

theorem readLineStatus_notFound {l : Fin 8} (hl : u8 p 0 = l.val) (h : s.line? l = none) : readLineStatus p s = (s, .refuse .notFound) := by
  simp only [readLineStatus, lineNo_val hl, h]

theorem readLineStatus_ok {l : Fin 8} (hl : u8 p 0 = l.val) {ln : Line} (h : s.line? l = some ln) {payload : List Byte}
    (hpayload : s.statusPayload l ln = payload) : readLineStatus p s = (s, .ok payload) := by
  simp only [readLineStatus, lineNo_val hl, h, hpayload]

/-- A stoppage's bytes, with its plant time given by its spelling. -/
theorem Stoppage.bytes_spelled (st : Stoppage) (restart confirm : Option Tick) {plant : List Byte} (hplant : encPlant st.startPlant = plant) :
    st.bytes restart confirm = (encTick st.number ++ encTick st.start ++ plant ++ enc1 st.carriedIn.toNat ++ encRoot st.initial
      ++ encRoot st.root ++ encTick st.segmentStart ++ enc4 st.segments ++ encOpt 4 encTick st.longStop ++ enc1 st.notified.toNat
      ++ encOpt 4 encTick st.cap ++ enc1 st.capped.toNat) ++ encOpt 4 encTick restart ++ encOpt 4 encTick confirm := by
  subst hplant
  simp only [Stoppage.bytes, encFlag]

/-- A mode's bytes: its code, and its cause, target and allowance, each optional. -/
def Mode.bytes (m : Mode) : List Byte := enc1 m.code ++ encOpt 1 enc1 m.cause? ++ encOpt 2 enc2 m.target? ++ encOpt 4 enc4 m.allowance?

/-- The optional planned segment of a condition. -/
def segmentBytes (c : Option Condition) : List Byte :=
  encOpt 6 (fun x : Nat × TimeClass × Tick => enc1 x.1 ++ enc1 x.2.1.code ++ encTick x.2.2) (c.bind (·.segment?))

/-- The last window values, each optional. -/
def lastBytes (last : Option (Nat × Nat)) : List Byte :=
  encOpt 4 (fun x : Nat × Nat => enc4 x.1) last ++ encOpt 4 (fun x : Nat × Nat => enc4 x.2) last

theorem encOpt_none {α : Type} (width : Nat) (enc : α → List Byte) : encOpt width enc none = List.replicate (width + 1) 0#8 := rfl

theorem replicate_append_replicate_append {α : Type} (n m : Nat) (a : α) (as : List α) :
    List.replicate n a ++ (List.replicate m a ++ as) = List.replicate (n + m) a ++ as := by
  rw [← List.append_assoc, List.replicate_append_replicate]

theorem Condition.stopBytes_unobserved : Condition.unobserved.stopBytes = List.replicate 68 0#8 := rfl

theorem RateState.bytes_initial : RateState.initial.bytes = List.replicate 37 0#8 := rfl

/-- A status that is not live. -/
theorem State.statusPayload_notLive {l : Fin 8} {ln : Line} (h : ln.live = none) {configured : List Byte}
    (hconfigured : configured = ln.defn.bytes l ++ ln.mode.bytes) : s.statusPayload l ln =
    configured ++ encOpt 4 encTick none ++ enc2 ln.currentProduct ++ List.replicate (7 + 2 + 5 + 17 + 51) 0#8 ++ encTick s.lastStoppage[l]
      ++ List.replicate (3 + 19 + 5 + 10 + 11) 0#8 ++ encTick s.runClock := by
  subst hconfigured
  simp only [State.statusPayload, h, Mode.bytes, Option.bind_none, Option.map_none, Option.getD_none, encOpt_none,
    Condition.stopBytes_unobserved, RateState.bytes_initial, List.append_assoc, replicate_append_replicate_append, Nat.reduceAdd]

/-- A live status, with the fields that the condition or a presence byte spells given by their spellings. -/
theorem State.statusPayload_live {l : Fin 8} {ln : Line} {lv : Live} (h : ln.live = some lv)
    {configured segment code stops window last : List Byte} (hconfigured : configured = ln.defn.bytes l ++ ln.mode.bytes)
    (hsegment : segmentBytes (some lv.condition) = segment) (hcode : enc1 lv.condition.code = code) (hstops : lv.condition.stopBytes = stops)
    (hwindow : encOpt 18 Window.bytes lv.rate.window = window) (hlast : lastBytes lv.rate.last = last) : s.statusPayload l ln =
    configured ++ encOpt 4 encTick lv.allowanceExpiry ++ enc2 ln.currentProduct ++ segment ++ [1#8] ++ code ++ [1#8] ++ encTick lv.lastChange
      ++ stops ++ encTick s.lastStoppage[l] ++ enc1 lv.rate.slow.toNat ++ enc1 lv.rate.lowRun ++ enc1 lv.rate.highRun ++ window
      ++ encOpt 4 encTick lv.rate.slowStart ++ last ++ [1#8] ++ encTick lv.period.number ++ encTick lv.period.start
      ++ enc1 lv.period.rehearsal.toNat ++ enc1 lv.period.runs.length ++ encTick s.runClock := by
  subst hconfigured hsegment hcode hstops hwindow hlast
  simp only [State.statusPayload, h, Mode.bytes, RateState.bytes, Period.statusBytes, segmentBytes, lastBytes, Option.bind_some,
    Option.map_some, Option.getD_some, List.append_assoc]
  rfl

/-! ## READ_LINK_STATS -/

theorem readLinkStats_badValue (h : 3 < u8 p 0 ∨ 1 < u8 p 1) : readLinkStats p s = (s, .badValue) := by
  unfold readLinkStats
  split
  case h_1 => rfl
  case h_2 k hk =>
    rcases h with hlink | hflag
    · rw [linkNo_none hlink] at hk
      cases hk
    · exact if_pos hflag

/-- What READ_LINK_STATS leaves: the statistics zeroed where the clear flag is set. -/
def State.clearedStats (s : State) (k : Fin 4) (clear : Nat) : State :=
  if clear = 1 then s.updLink k fun L => { L with stats := LinkStats.zero } else s

theorem readLinkStats_ok {k : Fin 4} (hk : u8 p 0 = k.val) (hflag : u8 p 1 ≤ 1) {payload : List Byte} (hpayload : s.linkPayload k = payload) :
    readLinkStats p s = (s.clearedStats k (u8 p 1), .ok payload) := by
  subst hpayload
  simp only [readLinkStats, linkNo_val hk, if_neg (Nat.not_lt.mpr hflag), State.clearedStats]
  split
  all_goals rfl

/-- A link's record, with its state given by its spelling. -/
theorem State.linkPayload_spelled (s : State) (k : Fin 4) {state : List Byte}
    (hstate : enc1 (s.link k).state.code ++ encOpt 1 (fun w : LinkFault => enc1 w.code) (s.link k).state.reason? = state) : s.linkPayload k =
    enc4 (s.link k).stats.pollsSent ++ enc4 (s.link k).stats.goodReplies ++ enc4 (s.link k).stats.timeouts
      ++ enc4 (s.link k).stats.checkErrors ++ enc4 (s.link k).stats.contentErrors ++ enc4 (s.link k).stats.busySkips
      ++ enc4 (s.link k).stats.flips ++ state ++ enc1 (s.link k).polarityMode.code ++ enc1 (s.link k).polarity.code
      ++ enc1 (s.link k).deadRounds ++ enc1 (s.link k).busyRun ++ enc4 (s.link k).bitRate.bps ++ enc1 (s.link k).polarityMode.code
      ++ enc2 (10 * (s.link k).pace) ++ enc1 (s.link k).missThreshold ++ enc1 (s.link k).returnThreshold
      ++ enc1 (slotList s.stations k).length ++ encTick s.runClock := by
  subst hstate
  simp only [State.linkPayload, LinkStats.bytes, List.append_assoc]

end

/-- Settles O53: the three answers; each optional field and each code is spelled by its cases. -/
theorem recordsAreReadAndStatisticsCleared : Obligations.RecordsAreReadAndStatisticsCleared := by
  intro s p opt root stop hready ⟨hnone, hsome⟩ hroot hstop
  have hopt : opt = encOpt 4 encTick := funext fun o => by
    cases o with
    | none => exact hnone
    | some t => exact hsome t
  have hroots : root = encRoot := funext fun x => by
    rw [hroot]
    rfl
  subst hopt hroots
  have hstops : ∀ (st : Stoppage) (a b : Option Tick), st.bytes a b = stop st ++ encOpt 4 encTick a ++ encOpt 4 encTick b := fun st a b => by
    rw [hstop]
    refine st.bytes_spelled a b ?_
    cases st.startPlant with
    | _ => rfl
  refine ⟨fun hlen => ?_, fun hlen => ?_⟩
  · have hform : p.length ∈ [1] := by simp [hlen]
    refine ⟨fun hn => ?_, fun hn hfree => ?_, fun hn r hr => ?_, fun hl => ?_, fun l hl => ⟨fun hfree => ?_,
      fun ln configured hln hconfigured => ?_⟩⟩
    · exact exec_of_requestBlock rfl hready hform (readStation_badValue hn)
    · exact exec_of_requestBlock rfl hready hform (readStation_notFound hn hfree)
    · refine exec_of_requestBlock rfl hready hform (readStation_ok hn hr (r.bytes_spelled s.runClock rfl ?_ ?_))
      · cases r.reported with
        | none => rfl
        | some st => cases st <;> rfl
      · cases r.baselines with
        | _ => rfl
    · exact exec_of_requestBlock rfl hready hform (readLineStatus_badValue hl)
    · exact exec_of_requestBlock rfl hready hform (readLineStatus_notFound hl hfree)
    have hspelled : configured = ln.defn.bytes l ++ ln.mode.bytes := by
      rw [hconfigured]
      cases ln.mode with
      | _ => rfl
    refine ⟨fun hlive => ?_, fun lv hlive => ?_⟩
    · exact exec_of_requestBlock rfl hready hform (readLineStatus_ok hl hln (State.statusPayload_notLive hlive hspelled))
    · refine exec_of_requestBlock rfl hready hform (readLineStatus_ok hl hln
        (State.statusPayload_live hlive hspelled ?_ ?_ ?_ ?_ ?_))
      · cases lv.condition with
        | _ => rfl
      · cases lv.condition with
        | _ => rfl
      · cases lv.condition with
        | stopped st => simp only [Condition.stopBytes, hstops]; rfl
        | restarting st a b => simp only [Condition.stopBytes, hstops]; rfl
        | _ => rfl
      · cases lv.rate.window with
        | _ => rfl
      · cases lv.rate.last with
        | _ => rfl
  · have hform : p.length ∈ [2] := by simp [hlen]
    refine ⟨fun hbad => ?_, fun k hk hflag => ⟨_, exec_of_requestBlock rfl hready hform
      (readLinkStats_ok hk hflag (s.linkPayload_spelled k ?_)), fun hkeep => ?_, fun hclear => ?_⟩⟩
    · exact exec_of_requestBlock rfl hready hform (readLinkStats_badValue hbad)
    · cases (s.link k).state with
      | fault w => cases w <;> rfl
      | _ => rfl
    · exact if_neg (by omega)
    · exact if_pos hclear

end Sys2Proof.Machine
end

section
/-! What a declaration does to a live line (R54–R61, R67, R68): the mode held is left, the mode declared entered; the return to SCHEDULED; and the two
obligations about these. -/

namespace Sys2Proof.Machine

/-! ## Leaving a mode -/

/-- The slow time up to now is all of it. -/
theorem slowTime_now (now a : Tick) : slowTime now a now = now - a := by simp [slowTime]

/-- The live state of a SCHEDULED line, settled at a declaration (R54). -/
def Live.leftScheduled (lv : Live) (d : LineDef) (now : Tick) : Live :=
  (match lv.condition with
    | .producing => (lv.chargeTo now).leaveProducing d now now
    | .candidate c => lv.resolveCandidate c now
    | .notScheduled | .planned _ _ | .changeover _ _ | .overrun _ | .unobserved | .stopped _ | .restarting _ _ _ => lv.chargeTo now).become
    .unobserved now

/-- The live state when the mode held ends at a declaration. -/
def Live.left (lv : Live) (held : Mode) (d : LineDef) (now : Tick) : Live :=
  match held with
  | .scheduled => lv.leftScheduled d now
  | .notScheduled | .planned _ _ | .changeover _ _ _ => (lv.chargeTo now).become (lv.condition.carry now) now

/-- A SCHEDULED line's stoppage is closed with its notice. -/
def State.stopTold (s : State) (l : Fin 8) (lv : Live) : State :=
  match lv.condition.stoppage? with
  | some st => s.notify (some l) (st.closedNotice s.runClock .modeDeclared)
  | none => s

section
variable {s : State} {l : Fin 8} {ln : Line} {lv : Live} {m : Mode}

theorem State.stopTold_none (h : lv.condition.stoppage? = none) : s.stopTold l lv = s := by simp only [State.stopTold, h]

theorem State.stopTold_some {st : Stoppage} (h : lv.condition.stoppage? = some st) :
    s.stopTold l lv = s.notify (some l) (st.closedNotice s.runClock .modeDeclared) := by
  simp only [State.stopTold, h]

/-- The notice changes the Journal and the flags alone. -/
theorem State.stopTold_same {α : Type} {f : State → α} (hf : ∀ (u : State) (o : Option (Fin 8)) (n : NoticeBody), f (u.notify o n) = f u) :
    f (s.stopTold l lv) = f s := by
  unfold State.stopTold
  split
  · exact hf _ _ _
  · rfl

theorem State.settleScheduled_onLine (h : s.onLine l ln lv) : s.settleScheduled l =
    (s.stopTold l lv).setLine l (some { ln with live := some (lv.leftScheduled ln.defn s.runClock) }) := by
  rw [State.settleScheduled, State.withLive_onLine h]
  cases hc : lv.condition with
  | stopped st | restarting st =>
    have hst : lv.condition.stoppage? = some st := by rw [hc]; rfl
    rw [State.stopTold_some hst, State.notify_setLine]
    refine (State.closeStoppage_become h hst _ _).trans ?_
    simp only [Live.leftScheduled, hc, ← Live.chargeTo_stoppage hst]
    rfl
  | _ =>
    rw [State.stopTold_none (by rw [hc]; rfl)]
    simp only [State.updLive_onLine h, Live.leftScheduled, hc]

/-- The live state in a declared mode. -/
def Live.declared (lv : Live) (m : Mode) (now : Tick) : Live :=
  { lv.become (m.condition now) now with allowanceExpiry := m.allowanceExpiry now }

theorem State.enterDeclared_onLine (h : s.onLine l ln lv) (m : Mode) :
    s.enterDeclared l m = s.setLine l (some { ln with mode := m, live := some (lv.declared m s.runClock) }) := by
  obtain ⟨hline, hlive⟩ := h
  rw [State.enterDeclared, State.updLine_some hline, hlive]
  rfl

theorem State.endDeclared_onLine (h : s.onLine l ln lv) : s.endDeclared l =
    s.setLine l (some { ln with live := some ((lv.chargeTo s.runClock).become (lv.condition.carry s.runClock) s.runClock) }) :=
  State.updLive_onLine h _

/-- A declaration of another mode than SCHEDULED that has an effect: what the mode held leaves, then the mode declared. -/
theorem State.declare_onLine (h : s.onLine l ln lv) (hm : m ≠ .scheduled) (hchange : ¬(ln.mode = .notScheduled ∧ m = .notScheduled)) :
    s.declare l m = (if ln.mode = .scheduled then s.stopTold l lv else s).setLine l
      (some { ln with mode := m, live := some ((lv.left ln.mode ln.defn s.runClock).declared m s.runClock) }) := by
  obtain ⟨hline, hlive⟩ := h
  by_cases hmode : ln.mode = .scheduled
  · have hdeclare : s.declare l m = (s.settleScheduled l).enterDeclared l m := by
      cases m with
      | scheduled => exact absurd rfl hm
      | _ => simp only [State.declare, hline, hmode]
    have hclock : (s.stopTold l lv).runClock = s.runClock := State.stopTold_same State.notify_runClock
    rw [hdeclare, State.settleScheduled_onLine ⟨hline, hlive⟩, State.enterDeclared_onLine (State.setLine_onLine _ l ln _),
      State.setLine_setLine, State.setLine_runClock, hclock, if_pos hmode, hmode]
    rfl
  · rw [State.declare_redeclare hline hmode hm hchange, State.endDeclared_onLine ⟨hline, hlive⟩,
      State.enterDeclared_onLine (State.setLine_onLine _ l ln _), State.setLine_setLine, if_neg hmode]
    cases hheld : ln.mode with
    | scheduled => exact absurd hheld hmode
    | _ => rfl

/-! ## What the settlement charges -/

theorem Live.leftScheduled_unobserved (h : lv.condition = .unobserved) (d : LineDef) (now : Tick) :
    (lv.leftScheduled d now).period = lv.period.chargeStretch .unobserved (now - lv.lastChange) := by
  simp only [Live.leftScheduled, h, ← Live.chargeTo_unobserved h]
  rfl

theorem Live.leftScheduled_producing (h : lv.condition = .producing) (d : LineDef) (now : Tick) :
    lv.leftScheduled d now = ((lv.chargeTo now).leaveProducing d now now).become .unobserved now := by
  simp only [Live.leftScheduled, h]

theorem Live.leaveProducing_now (lv : Live) (d : LineDef) (now : Tick) :
    (lv.leaveProducing d now now).period = lv.period.chargeSlowTo lv.rate.slowStart now := by
  cases h : lv.rate.slowStart with
  | none => simp only [Live.leaveProducing, Period.chargeSlowTo, h]
  | some a => simp only [Live.leaveProducing, Period.chargeSlowTo, h, slowTime_now]

theorem Live.leftScheduled_producing_period (h : lv.condition = .producing) (d : LineDef) (now : Tick) : (lv.leftScheduled d now).period =
    (lv.period.chargeStretch .producing (now - lv.lastChange)).chargeSlowTo lv.rate.slowStart now := by
  rw [Live.leftScheduled_producing h]
  refine (Live.leaveProducing_now _ d now).trans ?_
  simp only [Live.chargeTo, h]
  rfl

theorem Live.leftScheduled_candidate {c : Candidate} (h : lv.condition = .candidate c) (d : LineDef) (now : Tick) :
    (lv.leftScheduled d now).period = lv.period.chargeMicroStop c.root (now - c.chargeStart) := by
  simp only [Live.leftScheduled, h]
  rfl

theorem Live.leftScheduled_stoppage {st : Stoppage} (h : lv.condition.stoppage? = some st) (d : LineDef) (now : Tick) :
    (lv.leftScheduled d now).period = lv.period.chargeSegment st.root (now - st.segmentStart) := by
  rw [← Live.chargeTo_stoppage h]
  cases hc : lv.condition with
  | stopped | restarting =>
    simp only [Live.leftScheduled, hc]
    rfl
  | _ =>
    rw [hc] at h
    cases h

theorem Live.left_other {held : Mode} (h : held ≠ .scheduled) (d : LineDef) (now : Tick) :
    lv.left held d now = (lv.chargeTo now).become (lv.condition.carry now) now := by
  cases held with
  | scheduled => exact absurd rfl h
  | _ => rfl

end

/-- Settles O36: the declaration as `State.declare_onLine` has it, and what the settlement of the mode held charges, by the condition. -/
theorem declarationEntersTheMode : Obligations.DeclarationEntersTheMode := by
  intro s p l ln lv m hready hlen hpart hl hon hmodeOf hm hchange
  have hline : s.line? l = some ln := hon.1
  have hexec := exec_of_declareLineMode hready hlen (declareLineMode_ok hpart hl hline hmodeOf)
  have htouch : Touch (.ofLine l) s (s.declare l m) := .declare rfl m
  have hdeclare := State.declare_onLine hon hm hchange
  rw [hdeclare] at hexec htouch
  refine ⟨_, (lv.left ln.mode ln.defn s.runClock).declared m s.runClock, hexec, State.line?_setLine_same .., rfl, ?_, fun hmode => ?_, fun hmode =>
    ⟨fun hc => ?_, fun hc => ?_, fun c hc => ?_, fun st hst => ?_⟩, htouch.sameBeside, ?_, ?_, htouch.links_same fun _ => id,
    htouch.triggers_same fun _ => id, htouch.frame.plant, htouch.frame.host⟩
  · cases m with
    | scheduled => exact absurd rfl hm
    | _ => exact ⟨rfl, rfl⟩
  · rw [if_neg hmode, Live.left_other hmode]
    exact ⟨rfl, rfl, rfl⟩
  · have hquiet : s.stopTold l lv = s := State.stopTold_none (by rw [hc]; rfl)
    rw [if_pos hmode, hquiet, hmode]
    exact ⟨Live.leftScheduled_unobserved hc _ _, rfl, rfl⟩
  · have hquiet : s.stopTold l lv = s := State.stopTold_none (by rw [hc]; rfl)
    rw [if_pos hmode, hquiet, hmode]
    have hleft := Live.leftScheduled_producing hc ln.defn s.runClock
    have hslow : ((lv.left .scheduled ln.defn s.runClock).declared m s.runClock).rate.slow = ln.defn.keepsSlow lv.rate.slow :=
      congrArg (·.rate.slow) hleft
    exact ⟨congrArg (·.rate.window) hleft, congrArg (·.rate.lowRun) hleft, congrArg (·.rate.highRun) hleft,
      fun hrate => hslow.trans (LineDef.keepsSlow_of_rate hrate _), fun hrate => hslow.trans (LineDef.keepsSlow_of_no_rate hrate _), rfl, rfl,
      Live.leftScheduled_producing_period hc _ _⟩
  · have hquiet : s.stopTold l lv = s := State.stopTold_none (by rw [hc]; rfl)
    rw [if_pos hmode, hquiet, hmode]
    exact ⟨Live.leftScheduled_candidate hc _ _, rfl, rfl⟩
  · rw [if_pos hmode, State.stopTold_some hst, hmode]
    refine ⟨Live.leftScheduled_stoppage hst _ _, ?_⟩
    rintro u rfl
    exact ⟨rfl, rfl⟩
  · split
    · exact congrArg (·[l]) (State.stopTold_same State.notify_store)
    · rfl
  · split
    · exact State.stopTold_same State.notify_stations
    · rfl

end Sys2Proof.Machine
end

section
/-! The return to SCHEDULED (R61, R67, R68) and its obligation: the declared time ends, a changeover's target becomes current, and the constraint
decides the condition. -/

namespace Sys2Proof.Machine

/-! ## A walk sees a record's identity, place and report alone -/

/-- The fields of a record that a walk reads. -/
def Station.walked (r : Station) : Nat × Nat × Bool × StationLink × Option ReportedState × Nat × Nat :=
  (r.number, r.position, r.bypassed, r.linkState, r.reported, r.faultCode, r.reasonCode)

section
variable {m : List CauseEntry} {f : Station → Station}

theorem Station.walked_fields {r q : Station} (h : r.walked = q.walked) : r.number = q.number ∧ r.position = q.position
    ∧ r.bypassed = q.bypassed ∧ r.linkState = q.linkState ∧ r.reported = q.reported ∧ r.faultCode = q.faultCode
    ∧ r.reasonCode = q.reasonCode := by
  simpa [Station.walked] using h

theorem readStop_congr {r q : Station} (h : r.walked = q.walked) : readStop m r = readStop m q := by
  obtain ⟨hnumber, _, _, hlink, hreported, hfault, hreason⟩ := Station.walked_fields h
  simp only [readStop, hnumber, hlink, hreported, hfault, hreason]

variable (hf : ∀ r, (f r).walked = r.walked)
include hf

theorem walkAlong_map (pass : ReportedState) (atEnd : Nat) (last : Station) (rs : List Station) :
    walkAlong m pass atEnd (f last) (rs.map f) = walkAlong m pass atEnd last rs := by
  induction rs generalizing last with
  | nil =>
    obtain ⟨hnumber, _⟩ := Station.walked_fields (hf last)
    simp only [List.map_nil, walkAlong, hnumber]
  | cons r rs ih =>
    obtain ⟨_, _, _, hlink, hreported, _⟩ := Station.walked_fields (hf r)
    have hpasses : (f r).passes pass = r.passes pass := by rw [Station.passes, Station.passes, hlink, hreported]
    simp only [List.map_cons, walkAlong, hpasses, ih r, readStop_congr (hf r)]

theorem walkFrom_map (rs : List Station) (c : Station) : walkFrom m (rs.map f) (f c) = walkFrom m rs c := by
  have hfield := fun r => Station.walked_fields (hf r)
  have hposition : ∀ r, (f r).position = r.position := fun r => (hfield r).2.1
  have hbypassed : ∀ r, (f r).bypassed = r.bypassed := fun r => (hfield r).2.2.1
  obtain ⟨_, _, _, hlink, hreported, _⟩ := hfield c
  unfold walkFrom
  simp only [List.filter_map, Function.comp_def, hposition, hbypassed, hlink, hreported, ← List.map_reverse, walkAlong_map hf,
    readStop_congr (hf c)]

end

/-! ## The operations of a return -/

/-- The live state after a return to SCHEDULED, from the constraint's record (R61 step 4). -/
def Live.resumed (lv : Live) (d : LineDef) (constraint : Option Station) (root : Root) (now : Tick) : Live :=
  match constraint with
  | none => { lv with allowanceExpiry := none }.become .unobserved now
  | some c =>
    match c.linkState with
    | .unknown | .silent => { lv with allowanceExpiry := none }.become .unobserved now
    | .reporting =>
      if c.reported = some .run then ({ lv with allowanceExpiry := none }.become .producing now).startProducing d now
      else { lv with allowanceExpiry := none }.become (.candidate (Candidate.begin d root now)) now

section
variable {s : State} {l : Fin 8} {ln : Line} {lv : Live}

theorem State.resumeScheduled_onLine (h : s.onLine l ln lv) : s.resumeScheduled l = s.setLine l (some { ln with
    mode := .scheduled, live := some (lv.resumed ln.defn (s.constraint? l) (s.walk l) s.runClock) }) := by
  obtain ⟨hline, hlive⟩ := h
  rw [State.resumeScheduled, State.updLine_some hline, hlive]
  rfl

theorem Live.resumed_period (lv : Live) (d : LineDef) (o : Option Station) (root : Root) (now : Tick) :
    (lv.resumed d o root now).period = lv.period := by
  unfold Live.resumed
  split
  · rfl
  · split
    · rfl
    · rfl
    · split
      · rfl
      · rfl

theorem Live.resumed_lastChange (lv : Live) (d : LineDef) (o : Option Station) (root : Root) (now : Tick) :
    (lv.resumed d o root now).lastChange = now ∧ (lv.resumed d o root now).allowanceExpiry = none := by
  unfold Live.resumed
  split
  · exact ⟨rfl, rfl⟩
  · split
    · exact ⟨rfl, rfl⟩
    · exact ⟨rfl, rfl⟩
    · split
      · exact ⟨rfl, rfl⟩
      · exact ⟨rfl, rfl⟩

section
variable {c : Station} (d : LineDef) (root : Root) (now : Tick)

theorem Live.resumed_run (hlink : c.linkState = .reporting) (hrun : c.reported = some .run) : lv.resumed d (some c) root now =
    ({ lv with allowanceExpiry := none }.become .producing now).startProducing d now := by
  simp only [Live.resumed, hlink, if_pos hrun]

theorem Live.resumed_stopped (hlink : c.linkState = .reporting) (hrun : c.reported ≠ some .run) : lv.resumed d (some c) root now =
    { lv with allowanceExpiry := none }.become (.candidate (Candidate.begin d root now)) now := by
  simp only [Live.resumed, hlink, if_neg hrun]

theorem Live.resumed_unseen (hlink : c.linkState ≠ .reporting) : lv.resumed d (some c) root now =
    { lv with allowanceExpiry := none }.become .unobserved now := by
  cases h : c.linkState with
  | reporting => exact absurd h hlink
  | _ => simp only [Live.resumed, h]

end

/-- The live state whose declared time has been charged up to now. -/
def Live.ended (lv : Live) (now : Tick) : Live := (lv.chargeTo now).become (lv.condition.carry now) now

/-- A return under NOT_SCHEDULED or PLANNED. -/
theorem State.declare_returns (h : s.onLine l ln lv) (hmode : ln.mode ≠ .scheduled) (hchangeover : ∀ c x a, ln.mode ≠ .changeover c x a) :
    s.declare l .scheduled = (s.setLine l (some { ln with live := some (lv.ended s.runClock) })).resumeScheduled l := by
  have hreturn : s.declare l .scheduled = (s.endDeclared l).resumeScheduled l := by
    obtain ⟨hline, _⟩ := h
    cases hm : ln.mode with
    | scheduled => exact absurd hm hmode
    | changeover c x a => exact absurd hm (hchangeover c x a)
    | _ => simp only [State.declare, hline, hm, State.returnScheduled]
  rw [hreturn, State.endDeclared_onLine h]
  rfl

/-- The line whose changeover has ended, its target current. -/
def State.changedOver (s : State) (l : Fin 8) (ln : Line) (lv : Live) (target : Nat) : State :=
  s.setLine l (some { ln with currentProduct := target, live := some (lv.ended s.runClock) })

theorem State.changedOver_onLine (s : State) (l : Fin 8) (ln : Line) (lv : Live) (target : Nat) :
    (s.changedOver l ln lv target).onLine l { ln with currentProduct := target, live := some (lv.ended s.runClock) } (lv.ended s.runClock) :=
  ⟨s.line?_setLine_same l _, rfl⟩

/-- The product run that starts now. -/
def ProductRun.begun (target : Nat) (now : Tick) : ProductRun := { product := target, start := now, constraintGood := 0, finishedGood := 0 }

/-- The live state with a run of the target appended (R67). -/
def Live.withRun (lv : Live) (target : Nat) (now : Tick) : Live :=
  { lv with period := { lv.period with runs := lv.period.runs ++ [.begun target now] } }

/-- A return under CHANGEOVER records the target. -/
theorem State.declare_changesOver (h : s.onLine l ln lv) {c x a : Nat} (hmode : ln.mode = .changeover c x a) : s.declare l .scheduled =
    (if lv.period.runs.length < 4 then
        s.setLine l (some { ln with currentProduct := x, live := some ((lv.ended s.runClock).withRun x s.runClock) })
      else (s.changedOver l ln lv x).closeLine l .productLimit).resumeScheduled l := by
  have hreturn : s.declare l .scheduled = ((s.endDeclared l).recordProduct l x).resumeScheduled l := by
    obtain ⟨hline, _⟩ := h
    simp only [State.declare, hline, hmode, State.returnScheduled]
  have hruns : (lv.ended s.runClock).period.runs = lv.period.runs := by
    obtain ⟨_, _, _, hruns⟩ := Period.chargeTo_heading lv.period lv.condition lv.lastChange s.runClock
    exact hruns
  have hcurrent : (s.endDeclared l).updLine l (fun ln => { ln with currentProduct := x }) = s.changedOver l ln lv x := by
    rw [State.endDeclared_onLine h, State.updLine_some (State.line?_setLine_same s l _), State.setLine_setLine]
    rfl
  have hon := s.changedOver_onLine l ln lv x
  rw [hreturn, State.recordProduct, hcurrent]
  dsimp only
  rw [State.withLive_onLine hon, hruns, State.updLive_onLine hon, State.changedOver, State.setLine_setLine]
  rfl

/-! ## The constraint after a close -/

/-- A close's effect on a record of its line: it accrues from now. -/
def Station.accruing (l : Fin 8) (now : Tick) (r : Station) : Station := if r.line = l then { r with accrualStart := some now } else r

theorem Station.accruing_walked (l : Fin 8) (now : Tick) (r : Station) : (r.accruing l now).walked = r.walked := by
  unfold Station.accruing
  split
  all_goals rfl

theorem Station.accruing_place (l : Fin 8) (now : Tick) (r : Station) :
    (r.accruing l now).line = r.line ∧ (r.accruing l now).position = r.position ∧ (r.accruing l now).constraint = r.constraint := by
  unfold Station.accruing
  split
  all_goals exact ⟨rfl, rfl, rfl⟩

/-- The line's stations, its constraint and its walk after a close. -/
theorem State.closeLine_constraint (h : s.onLine l ln lv) (why : CloseReason) {c : Station} (hc : s.constraint? l = some c) :
    (s.closeLine l why).constraint? l = some (c.accruing l s.runClock)
    ∧ (s.closeLine l why).walk l = walkFrom s.causeMap (lineStations s.stations l) c := by
  have hstations : lineStations (s.closeLine l why).stations l = (lineStations s.stations l).map (Station.accruing l s.runClock) := by
    rw [State.closeLine_stations why h]
    exact lineStations_map (fun r => (r.accruing_place l s.runClock).1) (fun r => (r.accruing_place l s.runClock).2.1) s.stations l
  have hconstraint : (s.closeLine l why).constraint? l = some (c.accruing l s.runClock) := by
    rw [State.constraint?, hstations, List.find?_map]
    have hsame : (Station.constraint ∘ Station.accruing l s.runClock) = Station.constraint :=
      funext fun r => (r.accruing_place l s.runClock).2.2
    rw [hsame]
    exact congrArg (Option.map (Station.accruing l s.runClock)) hc
  refine ⟨hconstraint, ?_⟩
  rw [State.walk_constraint hconstraint, (State.closeLine_touch why s l).frame.causeMap, hstations]
  exact walkFrom_map (fun r => r.accruing_walked l s.runClock) _ _

/-! ## The constraint decides -/

/-- The live state `lv'` of a line that was live in `lv` is as the constraint `c` decides at a return (R61 step 4). -/
def Live.followsConstraint (lv' lv : Live) (d : LineDef) (root : Root) (now : Tick) (c : Station) : Prop :=
  (c.linkState = .reporting → c.reported = some .run → lv'.condition = .producing ∧ lv'.rate.window = d.startWindow now
      ∧ lv'.rate.slow = (lv.rate.slow && d.nominalRate != 0)
      ∧ lv'.rate.slowStart = if lv.rate.slow && d.nominalRate != 0 then some now else none)
  ∧ (c.linkState = .reporting → c.reported ≠ some .run → lv'.condition = .candidate (Candidate.begin d root now)
      ∧ lv'.rate.slow = lv.rate.slow)
  ∧ (c.linkState ≠ .reporting → lv'.condition = .unobserved ∧ lv'.rate.slow = lv.rate.slow)

theorem Live.resumed_followsConstraint {held : Live} (hslow : held.rate.slow = lv.rate.slow) {q c : Station} (hq : q.walked = c.walked)
    (d : LineDef) (root : Root) (now : Tick) : (held.resumed d (some q) root now).followsConstraint lv d root now c := by
  obtain ⟨_, _, _, hlink, hreported, _⟩ := Station.walked_fields hq
  unfold Live.followsConstraint
  rw [← hlink, ← hreported, ← hslow]
  refine ⟨fun hseen hrun => ?_, fun hseen hrun => ?_, fun hseen => ?_⟩
  · rw [Live.resumed_run d root now hseen hrun]
    exact ⟨rfl, rfl, rfl, rfl⟩
  · rw [Live.resumed_stopped d root now hseen hrun]
    exact ⟨rfl, rfl⟩
  · rw [Live.resumed_unseen d root now hseen]
    exact ⟨rfl, rfl⟩

/-- The last step of a return: `u` is the state before it, in which the constraint's record and its walk are as in `s`. -/
theorem State.resumeScheduled_follows {u : State} {ln' : Line} {held : Live} (hu : u.onLine l ln' held) (hdefn : ln'.defn = ln.defn)
    (hclock : u.runClock = s.runClock) (hslow : held.rate.slow = lv.rate.slow)
    (hconstraint : ∀ c, s.constraint? l = some c →
      ∃ q, u.constraint? l = some q ∧ q.walked = c.walked ∧ u.walk l = walkFrom s.causeMap (lineStations s.stations l) c) :
    ∃ lv', u.resumeScheduled l = u.setLine l (some { ln' with mode := .scheduled, live := some lv' })
      ∧ lv'.lastChange = s.runClock ∧ lv'.allowanceExpiry = none ∧ lv'.period = held.period
      ∧ ∀ c, s.constraint? l = some c →
          lv'.followsConstraint lv ln.defn (walkFrom s.causeMap (lineStations s.stations l) c) s.runClock c := by
  refine ⟨_, State.resumeScheduled_onLine hu, hclock ▸ (Live.resumed_lastChange ..).1, (Live.resumed_lastChange ..).2,
    Live.resumed_period .., fun c hc => ?_⟩
  obtain ⟨q, hq, hwalked, hwalk⟩ := hconstraint c hc
  rw [hq, hwalk, hdefn, hclock]
  exact Live.resumed_followsConstraint hslow hwalked _ _ _

/-- A change of the line alone leaves its constraint and its walk. -/
theorem State.constraint_setLine (x : Option Line) {c : Station} (hc : s.constraint? l = some c) : ∃ q, (s.setLine l x).constraint? l = some q
    ∧ q.walked = c.walked ∧ (s.setLine l x).walk l = walkFrom s.causeMap (lineStations s.stations l) c :=
  ⟨c, hc, rfl, State.walk_constraint (s := s.setLine l x) hc⟩

/-! ## The close before a fifth run (R68) -/

/-- The record that a close for a new product places, and what it announces: `u` is the state at the close. -/
theorem State.productLimit_closes {u : State} {ln' : Line} {held : Live} (hu : u.onLine l ln' held) (hstore : u.store = s.store)
    (hjournal : u.journal = s.journal) (hattention : u.attention = s.attention) (hclock : u.runClock = s.runClock) (hplant : u.plant = s.plant)
    (hheading : lv.period.SameHeading held.period) :
    ∃ r, (u.closeLine l .productLimit).store[l].getLast? = some r ∧ r.reason = .productLimit ∧ r.closeTick = s.runClock
      ∧ r.period.number = lv.period.number ∧ r.period.runs = lv.period.runs ∧ (s.store[l].length < 3 → r.displaced = none)
      ∧ (∀ oldest rest, s.store[l] = oldest :: rest → 2 ≤ rest.length → r.displaced = some oldest.period.number)
      ∧ ∀ v, v = (s.notify (some l) (.periodClosed lv.period.number .productLimit r.displaced)).latch .period →
        (u.closeLine l .productLimit).journal = v.journal ∧ (u.closeLine l .productLimit).attention = v.attention := by
  have hsettled := hheading.trans (held.settled_heading u.runClock (lineStations u.stations l))
  obtain ⟨_, hnumber, _, hruns⟩ := hsettled
  have hheld : held.period.number = lv.period.number := hheading.2.1
  have hlast := placeIn_getLast? (r := u.closingRecord l held .productLimit) rfl s.store[l]
  refine ⟨{ u.closingRecord l held .productLimit with displaced := displacedBy s.store[l] }, ?_, rfl, hclock, hnumber, hruns, displacedBy_room,
    fun oldest rest => displacedBy_full, ?_⟩
  · rw [State.closeLine_store_same .productLimit hu, hstore, hlast]
  · rintro v rfl
    have hannounced := State.closeLine_announced .productLimit hu
    obtain ⟨hsays, hflags⟩ := State.notify_congr (some l) (.periodClosed lv.period.number .productLimit (displacedBy s.store[l])) hjournal
      hattention hclock hplant
    rw [hstore, hheld] at hannounced
    exact ⟨hannounced.1.trans hsays, hannounced.2.trans (congrArg (·.latch .period) hflags)⟩

end

/-- Settles O37: the three ways of a return — under NOT_SCHEDULED or PLANNED, under CHANGEOVER with room for a run, and with a close before a fifth. -/
theorem returnToScheduledFollowsTheConstraint : Obligations.ReturnToScheduledFollowsTheConstraint := by
  intro s p l ln lv hready hlen hpart hl hfield hon hmode
  have hline : s.line? l = some ln := hon.1
  have hexec := exec_of_declareLineMode hready hlen (declareLineMode_ok (m := .scheduled) hpart hl hline (hfield ▸ modeOf_scheduled))
  have htouch : Touch (.ofLine l) s (s.declare l .scheduled) := .declare rfl .scheduled
  have hended : lv.period.SameHeading (lv.ended s.runClock).period := Period.chargeTo_heading ..
  by_cases hchangeover : ∃ c x a, ln.mode = .changeover c x a
  · obtain ⟨c, x, a, hheld⟩ := hchangeover
    have hdeclare := State.declare_changesOver hon hheld
    have hon' := s.changedOver_onLine l ln lv x
    by_cases hruns : lv.period.runs.length < 4
    · rw [if_pos hruns] at hdeclare
      obtain ⟨lv', hresumed, hlast, hallowance, hperiod, hfollows⟩ := State.resumeScheduled_follows (s := s) (ln := ln) (lv := lv)
        (State.setLine_onLine s l { ln with currentProduct := x } ((lv.ended s.runClock).withRun x s.runClock)) rfl rfl rfl fun c => State.constraint_setLine _
      rw [hdeclare, hresumed, State.setLine_setLine] at hexec htouch
      refine ⟨_, lv', hexec, ?_, hlast, hallowance, hfollows, fun hnot => absurd hheld (hnot c x a), fun c' x' a' hheld' =>
        ⟨fun _ => ⟨rfl, rfl, rfl, ?_⟩, fun hfull => absurd hruns (Nat.not_lt.mpr hfull)⟩, htouch.sameBeside⟩
      · rw [State.line?_setLine_same, hheld]
      · obtain ⟨_, rfl, _⟩ := Mode.changeover.inj (hheld.symm.trans hheld')
        exact hperiod
    · rw [if_neg hruns] at hdeclare
      obtain ⟨lv', hresumed, hlast, hallowance, hperiod, hfollows⟩ := State.resumeScheduled_follows (s := s) (ln := ln) (lv := lv)
        (u := (s.changedOver l ln lv x).closeLine l .productLimit) ⟨State.closeLine_line? .productLimit hon', rfl⟩ rfl
        (State.closeLine_touch .productLimit _ l).frame.runClock rfl fun c hc =>
          have ⟨hq, hwalk⟩ := State.closeLine_constraint (s := s.changedOver l ln lv x) hon' .productLimit hc
          ⟨_, hq, c.accruing_walked l _, hwalk⟩
      have hcloses := State.productLimit_closes (s := s) (lv := lv) hon' rfl rfl rfl rfl rfl hended
      rw [hdeclare, hresumed] at hexec htouch
      refine ⟨_, lv', hexec, ?_, hlast, hallowance, hfollows, fun hnot => absurd hheld (hnot c x a), fun c' x' a' hheld' =>
        ⟨fun hroom => absurd hroom hruns, fun _ => ⟨?_, ?_, hcloses⟩⟩, htouch.sameBeside⟩
      · rw [State.line?_setLine_same, hheld]
      · obtain ⟨_, rfl, _⟩ := Mode.changeover.inj (hheld.symm.trans hheld')
        rw [hperiod]
        rfl
      · rw [hperiod]
        rfl
  · have hnot : ∀ c x a, ln.mode ≠ .changeover c x a := fun c x a h => hchangeover ⟨c, x, a, h⟩
    obtain ⟨lv', hresumed, hlast, hallowance, hperiod, hfollows⟩ := State.resumeScheduled_follows (s := s) (ln := ln) (lv := lv)
      (State.setLine_onLine s l ln (lv.ended s.runClock)) rfl rfl rfl fun c => State.constraint_setLine _
    have hdeclare := State.declare_returns hon hmode hnot
    rw [hdeclare, hresumed, State.setLine_setLine] at hexec htouch
    refine ⟨_, lv', hexec, ?_, hlast, hallowance, hfollows, fun _ => ⟨hperiod, rfl, rfl, rfl⟩, fun c x a h => absurd h (hnot c x a),
      htouch.sameBeside⟩
    rw [State.line?_setLine_same]
    cases hm : ln.mode with
    | changeover c x a => exact absurd hm (hnot c x a)
    | _ => rfl

end Sys2Proof.Machine
end

section
/-! A rate window's end (R82, R83, R88), and the obligation about it: the window is judged, SLOW declared or cleared, and the next window started. -/

namespace Sys2Proof.Machine

section
variable {s : State} {l : Fin 8} {ln : Line} {lv : Live} {d : LineDef} {w : Window} {now : Tick}

/-! ## SLOW is judged (R83) -/

/-- The runs call for SLOW to be declared. -/
def Live.declaresSlow (lv : Live) (d : LineDef) : Prop := lv.rate.slow = false ∧ d.declareWindows ≤ lv.rate.lowRun

/-- The runs call for SLOW to be cleared. -/
def Live.clearsSlow (lv : Live) (d : LineDef) : Prop := lv.rate.slow = true ∧ d.clearWindows ≤ lv.rate.highRun

/-- The live state with SLOW declared now. -/
def Live.slowDeclared (lv : Live) (now : Tick) : Live := { lv with rate := { lv.rate with slow := true, slowStart := some now } }

/-- The live state with SLOW cleared now by the runs. -/
def Live.slowCleared (lv : Live) (now : Tick) : Live :=
  { lv with
    rate := { lv.rate with slow := false, slowStart := none }
    period := lv.period.chargeSlowTo lv.rate.slowStart now }

theorem State.judgeSlow_declares (h : s.onLine l ln lv) (hslow : lv.declaresSlow d) : s.judgeSlow l d w =
    (s.notify (some l) (.slowDeclared w.actual w.expected)).setLine l (some { ln with live := some (lv.slowDeclared s.runClock) }) := by
  obtain ⟨hclear, hruns⟩ := hslow
  rw [State.judgeSlow, State.withLive_onLine h, if_pos (by simp [hclear, hruns]), State.updLive_onLine h, State.notify_setLine]
  rfl

theorem State.judgeSlow_clears (h : s.onLine l ln lv) (hslow : lv.clearsSlow d) : s.judgeSlow l d w =
    (s.notify (some l) (.slowCleared w.actual w.expected)).setLine l (some { ln with live := some (lv.slowCleared s.runClock) }) := by
  obtain ⟨hset, hruns⟩ := hslow
  rw [State.judgeSlow, State.withLive_onLine h, if_neg (by simp [hset]), if_pos (by simp [hset, hruns]), State.updLive_onLine h,
    State.notify_setLine]
  rfl

theorem State.judgeSlow_stays (h : s.onLine l ln lv) (hdeclare : ¬lv.declaresSlow d) (hclear : ¬lv.clearsSlow d) : s.judgeSlow l d w = s := by
  rw [State.judgeSlow, State.withLive_onLine h, if_neg (by simpa [Live.declaresSlow] using hdeclare),
    if_neg (by simpa [Live.clearsSlow] using hclear)]

/-! ## The window completes -/

theorem State.completeWindow_early (h : s.onLine l ln lv) (hw : lv.rate.window = some w) (hearly : reached w.expiry s.runClock = false) :
    s.completeWindow l = s := by
  rw [State.completeWindow, State.withLive_onLine h]
  simp only [hw, hearly]
  rfl

/-- The window is judged: `u` is the state after SLOW has been. -/
theorem State.completeWindow_reached (h : s.onLine l ln lv) (hw : lv.rate.window = some w) (hreached : reached w.expiry s.runClock = true) :
    s.completeWindow l = ((s.setLine l (some { ln with live := some (lv.judgeWindow w) })).judgeSlow l ln.defn w).updLive l
      (·.nextWindow ln.defn s.runClock) := by
  rw [State.completeWindow, State.withLive_onLine h]
  simp only [hw, hreached, State.updLive_onLine h]
  rfl

/-- A notice, and the line with the next window. -/
theorem State.notify_nextWindow (n : NoticeBody) (ln' : Line) (held : Live) :
    (((s.setLine l (some { ln with live := some lv })).notify (some l) n).setLine l (some { ln' with live := some held })).updLive l
      (·.nextWindow d now) = (s.notify (some l) n).setLine l (some { ln' with live := some (held.nextWindow d now) }) := by
  rw [State.updLive_onLine (State.setLine_onLine _ l ln' held), ← State.notify_setLine, State.setLine_setLine, State.setLine_setLine]

theorem State.completeWindow_declares (h : s.onLine l ln lv) (hw : lv.rate.window = some w) (hreached : reached w.expiry s.runClock = true)
    (hslow : (lv.judgeWindow w).declaresSlow ln.defn) :
    s.completeWindow l = (s.notify (some l) (.slowDeclared w.actual w.expected)).setLine l (some { ln with
      live := some (((lv.judgeWindow w).slowDeclared s.runClock).nextWindow ln.defn s.runClock) }) := by
  rw [State.completeWindow_reached h hw hreached, State.judgeSlow_declares (State.setLine_onLine s l ln _) hslow]
  exact State.notify_nextWindow _ ln _

theorem State.completeWindow_clears (h : s.onLine l ln lv) (hw : lv.rate.window = some w) (hreached : reached w.expiry s.runClock = true)
    (hslow : (lv.judgeWindow w).clearsSlow ln.defn) :
    s.completeWindow l = (s.notify (some l) (.slowCleared w.actual w.expected)).setLine l (some { ln with
      live := some (((lv.judgeWindow w).slowCleared s.runClock).nextWindow ln.defn s.runClock) }) := by
  rw [State.completeWindow_reached h hw hreached, State.judgeSlow_clears (State.setLine_onLine s l ln _) hslow]
  exact State.notify_nextWindow _ ln _

theorem State.completeWindow_stays (h : s.onLine l ln lv) (hw : lv.rate.window = some w) (hreached : reached w.expiry s.runClock = true)
    (hdeclare : ¬(lv.judgeWindow w).declaresSlow ln.defn) (hclear : ¬(lv.judgeWindow w).clearsSlow ln.defn) :
    s.completeWindow l = s.setLine l (some { ln with live := some ((lv.judgeWindow w).nextWindow ln.defn s.runClock) }) := by
  have hon := State.setLine_onLine s l ln (lv.judgeWindow w)
  rw [State.completeWindow_reached h hw hreached, State.judgeSlow_stays hon hdeclare hclear, State.updLive_onLine hon, State.setLine_setLine]

/-! ## The next window -/

theorem Live.nextWindow_running (hrate : d.nominalRate ≠ 0) (lv : Live) (now : Tick) :
    lv.nextWindow d now = { lv with rate := { lv.rate with window := d.startWindow now } } := if_neg hrate

theorem Live.nextWindow_none (hrate : d.nominalRate = 0) (lv : Live) (now : Tick) : lv.nextWindow d now =
    { lv with
      rate := { lv.rate with slow := false, lowRun := 0, highRun := 0, slowStart := none, window := none }
      period := lv.period.chargeSlowTo lv.rate.slowStart now } := by
  rw [Live.nextWindow, if_pos hrate, Live.clearSlow_eq]

theorem Period.chargeSlowTo_slowTicks (p : Period) (o : Option Tick) (t : Tick) :
    (p.chargeSlowTo o t).slowTicks = p.slowTicks + ((o.map (t - ·)).getD 0#32) := by
  cases o with
  | none => exact (BitVec.add_zero _).symm
  | some a => rfl

/-- What a judgement leaves of the line and its account, beside the slow state: the live state `lv'` of a line that was live in `lv`. -/
structure Live.Windowed (lv lv' : Live) (w : Window) : Prop where
  condition  : lv'.condition = lv.condition
  lastChange : lv'.lastChange = lv.lastChange
  shortfall  : lv'.period.shortfall = satAdd lv.period.shortfall (w.expected - w.actual)
  completed  : lv'.period.completedWindows = satAdd lv.period.completedWindows 1
  classes    : lv'.period.classes = lv.period.classes
  buckets    : lv'.period.buckets = lv.period.buckets
  last       : lv'.rate.last = some (w.actual, w.expected)

theorem Period.chargeSlowTo_totals (p : Period) (o : Option Tick) (t : Tick) : (p.chargeSlowTo o t).shortfall = p.shortfall
    ∧ (p.chargeSlowTo o t).completedWindows = p.completedWindows ∧ (p.chargeSlowTo o t).classes = p.classes
    ∧ (p.chargeSlowTo o t).buckets = p.buckets := by
  cases o with
  | _ => exact ⟨rfl, rfl, rfl, rfl⟩

theorem Live.judgeWindow_windowed (lv : Live) (w : Window) : lv.Windowed (lv.judgeWindow w) w := ⟨rfl, rfl, rfl, rfl, rfl, rfl, rfl⟩

theorem Live.Windowed.slowDeclared {lv' : Live} (h : lv.Windowed lv' w) (now : Tick) : lv.Windowed (lv'.slowDeclared now) w :=
  ⟨h.condition, h.lastChange, h.shortfall, h.completed, h.classes, h.buckets, h.last⟩

theorem Live.Windowed.slowCleared {lv' : Live} (h : lv.Windowed lv' w) (now : Tick) : lv.Windowed (lv'.slowCleared now) w := by
  obtain ⟨hshort, hcompleted, hclasses, hbuckets⟩ := lv'.period.chargeSlowTo_totals lv'.rate.slowStart now
  exact ⟨h.condition, h.lastChange, hshort.trans h.shortfall, hcompleted.trans h.completed, hclasses.trans h.classes,
    hbuckets.trans h.buckets, h.last⟩

theorem Live.Windowed.nextWindow {lv' : Live} (h : lv.Windowed lv' w) (d : LineDef) (now : Tick) : lv.Windowed (lv'.nextWindow d now) w := by
  by_cases hrate : d.nominalRate = 0
  · obtain ⟨hshort, hcompleted, hclasses, hbuckets⟩ := lv'.period.chargeSlowTo_totals lv'.rate.slowStart now
    rw [Live.nextWindow_none hrate]
    exact ⟨h.condition, h.lastChange, hshort.trans h.shortfall, hcompleted.trans h.completed, hclasses.trans h.classes,
      hbuckets.trans h.buckets, h.last⟩
  · rw [Live.nextWindow_running hrate]
    exact ⟨h.condition, h.lastChange, h.shortfall, h.completed, h.classes, h.buckets, h.last⟩

/-! ## The runs -/

/-- The low run after a window. -/
def Live.lowRunAfter (lv : Live) (w : Window) : Nat := if w.actual * 100 < w.expected * w.declarePct then min (lv.rate.lowRun + 1) 16 else 0

/-- The high run after a window. -/
def Live.highRunAfter (lv : Live) (w : Window) : Nat := if w.expected * w.clearPct ≤ w.actual * 100 then min (lv.rate.highRun + 1) 16 else 0

theorem Live.judgeWindow_runs (lv : Live) (w : Window) :
    (lv.judgeWindow w).rate.lowRun = lv.lowRunAfter w ∧ (lv.judgeWindow w).rate.highRun = lv.highRunAfter w := by
  simp [Live.judgeWindow, Live.lowRunAfter, Live.highRunAfter, Window.isLow, Window.isHigh]

theorem Live.judgeWindow_declares_iff : (lv.judgeWindow w).declaresSlow d ↔ lv.rate.slow = false ∧ d.declareWindows ≤ lv.lowRunAfter w := by
  rw [Live.declaresSlow, (lv.judgeWindow_runs w).1]
  rfl

theorem Live.judgeWindow_clears_iff : (lv.judgeWindow w).clearsSlow d ↔ lv.rate.slow = true ∧ d.clearWindows ≤ lv.highRunAfter w := by
  rw [Live.clearsSlow, (lv.judgeWindow_runs w).2]
  rfl

end

/-- What a completed window leaves beside the line's account, by the nominal rate: `t` and `lv'` are the state and the line's live state after it. -/
def State.windowJudged (s t : State) (l : Fin 8) (d : LineDef) (lv lv' : Live) (w : Window) : Prop :=
  (0 < d.nominalRate →
    lv'.rate.lowRun = lv.lowRunAfter w ∧ lv'.rate.highRun = lv.highRunAfter w
    ∧ lv'.rate.slow = (if lv.rate.slow then !decide (d.clearWindows ≤ lv'.rate.highRun) else decide (d.declareWindows ≤ lv'.rate.lowRun))
    ∧ (lv.rate.slow = false → lv'.rate.slow = true → lv'.rate.slowStart = some s.runClock ∧ lv'.period.slowTicks = lv.period.slowTicks
        ∧ t.journal = (s.notify (some l) (.slowDeclared w.actual w.expected)).journal
        ∧ t.attention = (s.notify (some l) (.slowDeclared w.actual w.expected)).attention)
    ∧ (lv.rate.slow = true → lv'.rate.slow = false → lv'.rate.slowStart = none
        ∧ lv'.period.slowTicks = lv.period.slowTicks + ((lv.rate.slowStart.map (s.runClock - ·)).getD 0#32)
        ∧ t.journal = (s.notify (some l) (.slowCleared w.actual w.expected)).journal
        ∧ t.attention = (s.notify (some l) (.slowCleared w.actual w.expected)).attention)
    ∧ (lv.rate.slow = lv'.rate.slow → t.journal = s.journal ∧ t.attention = s.attention ∧ lv'.rate.slowStart = lv.rate.slowStart
        ∧ lv'.period.slowTicks = lv.period.slowTicks)
    ∧ lv'.rate.window = some { start := s.runClock, expiry := s.runClock + ticks (100 * d.windowSeconds)
                               expected := d.nominalRate * d.windowSeconds / 60, declarePct := d.declarePct, clearPct := d.clearPct
                               actual := 0 })
  ∧ (d.nominalRate = 0 → lv'.rate.window = none ∧ lv'.rate.slow = false ∧ lv'.rate.lowRun = 0 ∧ lv'.rate.highRun = 0
    ∧ lv'.rate.slowStart = none
    ∧ ∀ low high : Nat, low = lv.lowRunAfter w → high = lv.highRunAfter w →
      (lv.rate.slow = false → d.declareWindows ≤ low →
        t.journal = (s.notify (some l) (.slowDeclared w.actual w.expected)).journal
        ∧ t.attention = (s.notify (some l) (.slowDeclared w.actual w.expected)).attention
        ∧ lv'.period.slowTicks = lv.period.slowTicks)
      ∧ (lv.rate.slow = false → low < d.declareWindows → t.journal = s.journal ∧ t.attention = s.attention
        ∧ (lv.rate.slowStart = none → lv'.period.slowTicks = lv.period.slowTicks))
      ∧ (lv.rate.slow = true →
        lv'.period.slowTicks = lv.period.slowTicks + ((lv.rate.slowStart.map (s.runClock - ·)).getD 0#32)
        ∧ (d.clearWindows ≤ high → t.journal = (s.notify (some l) (.slowCleared w.actual w.expected)).journal
          ∧ t.attention = (s.notify (some l) (.slowCleared w.actual w.expected)).attention)
        ∧ (high < d.clearWindows → t.journal = s.journal ∧ t.attention = s.attention)))

section
variable {s : State} {l : Fin 8} {ln : Line} {lv : Live} {w : Window}

theorem State.windowJudged_declares (hslow : (lv.judgeWindow w).declaresSlow ln.defn) :
    s.windowJudged ((s.notify (some l) (.slowDeclared w.actual w.expected)).setLine l (some { ln with
        live := some (((lv.judgeWindow w).slowDeclared s.runClock).nextWindow ln.defn s.runClock) })) l ln.defn lv
      (((lv.judgeWindow w).slowDeclared s.runClock).nextWindow ln.defn s.runClock) w := by
  obtain ⟨hclear, hruns⟩ := Live.judgeWindow_declares_iff.mp hslow
  obtain ⟨hlow, hhigh⟩ := lv.judgeWindow_runs w
  refine ⟨fun hpos => ?_, fun hrate => ?_⟩
  · rw [Live.nextWindow_running (Nat.pos_iff_ne_zero.mp hpos)]
    refine ⟨hlow, hhigh, ?_, fun _ _ => ⟨rfl, rfl, rfl, rfl⟩, fun hset => ?_, fun hsame => ?_, LineDef.startWindow_running hpos _⟩
    · rw [hclear]
      exact (decide_eq_true (hlow.symm ▸ hruns)).symm
    · rw [hclear] at hset
      cases hset
    · rw [hclear] at hsame
      cases hsame
  · rw [Live.nextWindow_none hrate]
    refine ⟨rfl, rfl, rfl, rfl, rfl, ?_⟩
    rintro _ _ rfl rfl
    refine ⟨fun _ _ => ⟨rfl, rfl, ?_⟩, fun _ hfew => absurd hruns (Nat.not_le.mpr hfew), fun hset => ?_⟩
    · refine (Period.chargeSlowTo_slowTicks _ _ _).trans ?_
      show lv.period.slowTicks + (s.runClock - s.runClock) = lv.period.slowTicks
      rw [BitVec.sub_self, BitVec.add_zero]
    · rw [hclear] at hset
      cases hset

theorem State.windowJudged_clears (hslow : (lv.judgeWindow w).clearsSlow ln.defn) :
    s.windowJudged ((s.notify (some l) (.slowCleared w.actual w.expected)).setLine l (some { ln with
        live := some (((lv.judgeWindow w).slowCleared s.runClock).nextWindow ln.defn s.runClock) })) l ln.defn lv
      (((lv.judgeWindow w).slowCleared s.runClock).nextWindow ln.defn s.runClock) w := by
  obtain ⟨hset, hruns⟩ := Live.judgeWindow_clears_iff.mp hslow
  obtain ⟨hlow, hhigh⟩ := lv.judgeWindow_runs w
  have hcharged : ((lv.judgeWindow w).slowCleared s.runClock).period.slowTicks
      = lv.period.slowTicks + ((lv.rate.slowStart.map (s.runClock - ·)).getD 0#32) := Period.chargeSlowTo_slowTicks _ _ _
  refine ⟨fun hpos => ?_, fun hrate => ?_⟩
  · rw [Live.nextWindow_running (Nat.pos_iff_ne_zero.mp hpos)]
    refine ⟨hlow, hhigh, ?_, fun hclear => ?_, fun _ _ => ⟨rfl, hcharged, rfl, rfl⟩, fun hsame => ?_, LineDef.startWindow_running hpos _⟩
    · rw [hset]
      exact (congrArg not (decide_eq_true (hhigh.symm ▸ hruns))).symm
    · rw [hset] at hclear
      cases hclear
    · rw [hset] at hsame
      cases hsame
  · rw [Live.nextWindow_none hrate]
    refine ⟨rfl, rfl, rfl, rfl, rfl, ?_⟩
    rintro _ _ rfl rfl
    refine ⟨fun hclear => ?_, fun hclear => ?_, fun _ => ⟨hcharged, fun _ => ⟨rfl, rfl⟩, fun hfew => absurd hruns (Nat.not_le.mpr hfew)⟩⟩
    all_goals
      rw [hset] at hclear
      cases hclear

theorem State.windowJudged_stays (hdeclare : ¬(lv.judgeWindow w).declaresSlow ln.defn) (hclears : ¬(lv.judgeWindow w).clearsSlow ln.defn) :
    s.windowJudged (s.setLine l (some { ln with live := some ((lv.judgeWindow w).nextWindow ln.defn s.runClock) })) l ln.defn lv
      ((lv.judgeWindow w).nextWindow ln.defn s.runClock) w := by
  rw [Live.judgeWindow_declares_iff] at hdeclare
  rw [Live.judgeWindow_clears_iff] at hclears
  obtain ⟨hlow, hhigh⟩ := lv.judgeWindow_runs w
  refine ⟨fun hpos => ?_, fun hrate => ?_⟩
  · rw [Live.nextWindow_running (Nat.pos_iff_ne_zero.mp hpos)]
    refine ⟨hlow, hhigh, ?_, fun hclear hset => ?_, fun hset hclear => ?_, fun _ => ⟨rfl, rfl, rfl, rfl⟩, LineDef.startWindow_running hpos _⟩
    · show lv.rate.slow = _
      cases hslow : lv.rate.slow with
      | false =>
        refine (decide_eq_false ?_).symm
        exact fun hruns => hdeclare ⟨hslow, hlow ▸ hruns⟩
      | true =>
        refine (congrArg not (decide_eq_false ?_)).symm
        exact fun hruns => hclears ⟨hslow, hhigh ▸ hruns⟩
    · exact absurd (hclear.symm.trans hset) (by decide)
    · exact absurd (hset.symm.trans hclear) (by decide)
  · rw [Live.nextWindow_none hrate]
    refine ⟨rfl, rfl, rfl, rfl, rfl, ?_⟩
    rintro _ _ rfl rfl
    refine ⟨fun hclear hruns => absurd ⟨hclear, hruns⟩ hdeclare, fun _ _ => ⟨rfl, rfl, fun hstart => ?_⟩,
      fun hset => ⟨Period.chargeSlowTo_slowTicks _ _ _, fun hruns => absurd ⟨hset, hruns⟩ hclears, fun _ => ⟨rfl, rfl⟩⟩⟩
    refine (Period.chargeSlowTo_slowTicks _ _ _).trans ?_
    show lv.period.slowTicks + ((lv.rate.slowStart.map (s.runClock - ·)).getD 0#32) = lv.period.slowTicks
    rw [hstart]
    exact BitVec.add_zero _

/-- A running window whose end has come is completed, by what the runs call for. -/
theorem State.completeWindow_judged (h : s.onLine l ln lv) (hw : lv.rate.window = some w) (hreached : reached w.expiry s.runClock = true) :
    ∃ (u : State) (lv' : Live), s.completeWindow l = u.setLine l (some { ln with live := some lv' }) ∧ lv.Windowed lv' w
      ∧ s.windowJudged (s.completeWindow l) l ln.defn lv lv' w ∧ (u = s ∨ ∃ n, u = s.notify (some l) n) := by
  by_cases hdeclare : (lv.judgeWindow w).declaresSlow ln.defn
  · have heq := State.completeWindow_declares h hw hreached hdeclare
    exact ⟨_, _, heq, ((lv.judgeWindow_windowed w).slowDeclared _).nextWindow _ _, heq ▸ State.windowJudged_declares hdeclare, .inr ⟨_, rfl⟩⟩
  · by_cases hclear : (lv.judgeWindow w).clearsSlow ln.defn
    · have heq := State.completeWindow_clears h hw hreached hclear
      exact ⟨_, _, heq, ((lv.judgeWindow_windowed w).slowCleared _).nextWindow _ _, heq ▸ State.windowJudged_clears hclear, .inr ⟨_, rfl⟩⟩
    · have heq := State.completeWindow_stays h hw hreached hdeclare hclear
      exact ⟨_, _, heq, (lv.judgeWindow_windowed w).nextWindow _ _, heq ▸ State.windowJudged_stays hdeclare hclear, .inl rfl⟩

end

/-- Settles O39: a window before its end, and at its end by what the runs call for. -/
theorem windowExpiryJudgesTheWindow : Obligations.WindowExpiryJudgesTheWindow := by
  intro s l ln lv w h hw
  refine ⟨fun hearly => congrArg Host.Outcome.next (State.completeWindow_early h hw hearly), fun hreached => ?_⟩
  obtain ⟨u, lv', heq, hbeside, hjudged, hu⟩ := State.completeWindow_judged h hw hreached
  have htouch : Touch (.ofLine l) s (s.completeWindow l) := .completeWindow rfl
  have hsame : (s.completeWindow l).store = s.store ∧ (s.completeWindow l).stations = s.stations := by
    rw [heq]
    rcases hu with rfl | ⟨n, rfl⟩
    · exact ⟨rfl, rfl⟩
    · exact ⟨State.notify_store .., State.notify_stations ..⟩
  obtain ⟨hpositive, hzero⟩ := hjudged
  exact ⟨_, lv', rfl, heq ▸ State.line?_setLine_same .., hbeside.condition, hbeside.lastChange, hbeside.shortfall, hbeside.completed,
    hbeside.classes, hbeside.buckets, hbeside.last, hpositive, hzero, htouch.sameBeside, hsame.1, hsame.2, htouch.links_same fun _ => id,
    htouch.triggers_same fun _ => id, htouch.frame.plant, htouch.frame.host⟩

end Sys2Proof.Machine
end

section
/-! The counters of a report (R70–R78): what a credit and a discontinuity do to a station's entry and to the period's totals, the three counters
judged one after the other, the gap expiry; and the obligation about them. -/

namespace Sys2Proof.Machine

/-! ## A station's entry -/

/-- The period has an entry of the station. -/
def Period.hasEntry (p : Period) (n : Nat) : Prop := ∃ e ∈ p.stations, e.station = n

section
variable {p : Period} {n : Nat}

theorem Period.hasEntry.find (h : p.hasEntry n) : p.stations.find? (fun e => e.station == n) = some (p.entry n) := by
  obtain ⟨e, he, hn⟩ := h
  have hsome : (p.stations.find? fun e => e.station == n).isSome := by
    rw [List.find?_isSome]
    exact ⟨e, he, beq_iff_eq.mpr hn⟩
  obtain ⟨q, hq⟩ := Option.isSome_iff_exists.mp hsome
  rw [Period.entry, hq]
  rfl

theorem Period.hasEntry.station (h : p.hasEntry n) : (p.entry n).station = n := by
  have hfound := List.find?_some h.find
  exact beq_iff_eq.mp hfound

theorem Period.hasEntry.updated (h : p.hasEntry n) {f : StationEntry → StationEntry} (hf : ∀ e, (f e).station = e.station) :
    (p.updEntry n f).stations.find? (fun e => e.station == n) = some (f (p.entry n)) :=
  find_modifyFirst_same (f := fun e : StationEntry => e.station == n) h.find (beq_iff_eq.mpr ((hf _).trans h.station))

/-- The entry after a change of it. -/
theorem Period.entry_updEntry (h : p.hasEntry n) {f : StationEntry → StationEntry} (hf : ∀ e, (f e).station = e.station) :
    (p.updEntry n f).entry n = f (p.entry n) := by
  rw [Period.entry, h.updated hf]
  rfl

theorem Period.hasEntry_updEntry (h : p.hasEntry n) {f : StationEntry → StationEntry} (hf : ∀ e, (f e).station = e.station) :
    (p.updEntry n f).hasEntry n :=
  ⟨_, List.mem_of_find?_eq_some (h.updated hf), (hf _).trans h.station⟩

end

/-- The entry with one more discontinuity. -/
def StationEntry.discontinued (e : StationEntry) : StationEntry := { e with discontinuities := satAdd e.discontinuities 1 }

/-- The live state with one more discontinuity of a station. -/
def Live.discontinued (lv : Live) (n : Nat) : Live := { lv with period := lv.period.countDiscontinuity n }

/-- The live state `lv'` of a line that was live in `lv` has the station's entry changed by `f`. -/
def Live.entryBy (lv lv' : Live) (n : Nat) (f : StationEntry → StationEntry) : Prop :=
  lv.period.hasEntry n → lv'.period.hasEntry n ∧ lv'.period.entry n = f (lv.period.entry n)

section
variable {lv lv' : Live} {n d : Nat}

theorem Live.entryBy_updEntry {f : StationEntry → StationEntry} (hf : ∀ e, (f e).station = e.station) (b : Bool)
    (h : lv'.period.stations = ((lv.period.flagOver b).updEntry n f).stations) : lv.entryBy lv' n f := by
  intro hentry
  have hflagged : (lv.period.flagOver b).hasEntry n := hentry
  have hnow : lv'.period.hasEntry n ∧ lv'.period.entry n = ((lv.period.flagOver b).updEntry n f).entry n := by
    unfold Period.hasEntry Period.entry
    rw [h]
    exact ⟨Period.hasEntry_updEntry hflagged hf, rfl⟩
  exact ⟨hnow.1, hnow.2.trans (Period.entry_updEntry hflagged hf)⟩

theorem Live.entryBy_discontinued (lv : Live) (n : Nat) : lv.entryBy (lv.discontinued n) n StationEntry.discontinued :=
  Live.entryBy_updEntry (fun _ => rfl) _ rfl

theorem Live.entryBy_infeed (lv : Live) (n d : Nat) : lv.entryBy { lv with period := lv.period.creditInfeed n d } n
    fun e => { e with infeed := satAdd e.infeed d } :=
  Live.entryBy_updEntry (fun _ => rfl) _ rfl

theorem Live.entryBy_reject (lv : Live) (n d : Nat) : lv.entryBy { lv with period := lv.period.creditReject n d } n
    fun e => { e with rejects := satAdd e.rejects d } :=
  Live.entryBy_updEntry (fun _ => rfl) _ rfl

theorem Live.creditOutfeed_stations (lv : Live) (r : Station) (d : Nat) :
    (lv.creditOutfeed r d).period.stations = (lv.period.creditOutfeed r.number d).stations := by
  unfold Live.creditOutfeed
  cases r.constraint with
  | _ => cases r.finish with
    | _ => rfl

theorem Live.entryBy_outfeed (lv : Live) (r : Station) (d : Nat) : lv.entryBy (lv.creditOutfeed r d) r.number
    fun e => { e with outfeed := satAdd e.outfeed d } :=
  Live.entryBy_updEntry (fun _ => rfl) _ (lv.creditOutfeed_stations r d)

/-! ## The totals that a counter may change -/

/-- No total of the roles is credited, and neither the condition nor the classes change. -/
structure Live.Uncredited (lv lv' : Live) : Prop where
  condition  : lv'.condition = lv.condition
  classes    : lv'.period.classes = lv.period.classes
  constraint : lv'.period.constraintGood = lv.period.constraintGood
  finish     : lv'.period.finishedGood = lv.period.finishedGood
  window     : lv'.rate.window = lv.rate.window

theorem Live.discontinued_uncredited (lv : Live) (n : Nat) : lv.Uncredited (lv.discontinued n) := ⟨rfl, rfl, rfl, rfl, rfl⟩

/-- An outfeed credited, by the station's roles (R78). -/
theorem Live.creditOutfeed_totals (lv : Live) (r : Station) (d : Nat) :
    (lv.creditOutfeed r d).condition = lv.condition ∧ (lv.creditOutfeed r d).period.classes = lv.period.classes
    ∧ (lv.creditOutfeed r d).period.constraintGood = (if r.constraint then satAdd lv.period.constraintGood d else lv.period.constraintGood)
    ∧ (lv.creditOutfeed r d).period.finishedGood = (if r.finish then satAdd lv.period.finishedGood d else lv.period.finishedGood)
    ∧ (lv.creditOutfeed r d).rate.window
      = (if r.constraint then lv.rate.window.map fun w => { w with actual := w.actual + d } else lv.rate.window) := by
  unfold Live.creditOutfeed
  cases r.constraint with
  | _ => cases r.finish with
    | _ => exact ⟨rfl, rfl, rfl, rfl, rfl⟩

end

/-! ## One counter judged -/

/-- The notice of a refused counter. -/
def State.tellRefusal (r : Station) (u : State) (c : CounterName) : State :=
  u.notify (some r.line) (.countDiscontinuity r.number c .implausible)

/-- The counter, where its delta is refused. -/
def refusal (allowed delta : Nat) (c : CounterName) : List CounterName := if delta ≤ allowed then [] else [c]

/-- A counter's effect on the live state: credited, or a discontinuity. -/
def Live.counted (lv : Live) (n allowed delta : Nat) (credit : Live → Live) : Live := if delta ≤ allowed then credit lv else lv.discontinued n

section
variable {s : State} {ln : Line} {lv : Live} {r : Station}

theorem State.discontinuity_onLine (h : s.onLine r.line ln lv) (c : CounterName) (why : DiscontinuityReason) : s.discontinuity r c why =
    (s.notify (some r.line) (.countDiscontinuity r.number c why)).setLine r.line (some { ln with live := some (lv.discontinued r.number) }) := by
  rw [State.discontinuity, State.updLive_onLine h, State.notify_setLine]
  rfl

theorem State.judgeCounter_onLine (h : s.onLine r.line ln lv) (c : CounterName) (allowed delta : Nat) (credit : Live → Live) :
    s.judgeCounter r c allowed delta credit = ((refusal allowed delta c).foldl (State.tellRefusal r) s).setLine r.line
      (some { ln with live := some (lv.counted r.number allowed delta credit) }) := by
  unfold State.judgeCounter refusal Live.counted
  split
  · exact State.updLive_onLine h credit
  · exact State.discontinuity_onLine h c .implausible

theorem State.tellRefusals_setLine (refused : List CounterName) (s : State) (x : Option Line) :
    refused.foldl (State.tellRefusal r) (s.setLine r.line x) = (refused.foldl (State.tellRefusal r) s).setLine r.line x := by
  induction refused generalizing s with
  | nil => rfl
  | cons c refused ih =>
    rw [List.foldl_cons, List.foldl_cons, ← ih]
    exact congrArg (List.foldl (State.tellRefusal r) · refused) (State.notify_setLine s _ _ _ _).symm

/-! ## The three counters -/

/-- The live state after the three counters, each judged on its own. -/
def Live.countedAll (lv : Live) (r : Station) (allowed infeed outfeed reject : Nat) : Live :=
  ((lv.counted r.number allowed infeed fun lv => { lv with period := lv.period.creditInfeed r.number infeed }).counted r.number allowed outfeed
    (·.creditOutfeed r outfeed)).counted r.number allowed reject fun lv => { lv with period := lv.period.creditReject r.number reject }

/-- The counters refused, in the order judged. -/
def refusals (allowed infeed outfeed reject : Nat) : List CounterName :=
  refusal allowed infeed .infeed ++ refusal allowed outfeed .outfeed ++ refusal allowed reject .reject

/-- The state after the three counters. -/
theorem State.judgeCounters_onLine (h : s.onLine r.line ln lv) (allowed infeed outfeed reject : Nat) :
    ((s.judgeCounter r .infeed allowed infeed fun lv => { lv with period := lv.period.creditInfeed r.number infeed }).judgeCounter r .outfeed
        allowed outfeed (·.creditOutfeed r outfeed)).judgeCounter r .reject allowed reject
          (fun lv => { lv with period := lv.period.creditReject r.number reject })
      = ((refusals allowed infeed outfeed reject).foldl (State.tellRefusal r) s).setLine r.line
        (some { ln with live := some (lv.countedAll r allowed infeed outfeed reject) }) := by
  rw [State.judgeCounter_onLine h, State.judgeCounter_onLine (State.setLine_onLine _ _ ln _), State.tellRefusals_setLine, State.setLine_setLine,
    State.judgeCounter_onLine (State.setLine_onLine _ _ ln _), State.tellRefusals_setLine, State.setLine_setLine, refusals, List.foldl_append,
    List.foldl_append]
  rfl

/-- An entry after a counter judged: changed by the credit, or one more discontinuity. -/
def StationEntry.counted (e : StationEntry) (allowed delta : Nat) (f : StationEntry → StationEntry) : StationEntry :=
  if delta ≤ allowed then f e else e.discontinued

theorem Live.entryBy_counted {lv : Live} {n allowed delta : Nat} {credit : Live → Live} {f : StationEntry → StationEntry}
    (hcredit : lv.entryBy (credit lv) n f) : lv.entryBy (lv.counted n allowed delta credit) n (·.counted allowed delta f) := by
  unfold Live.counted StationEntry.counted
  split
  · exact hcredit
  · exact lv.entryBy_discontinued n

/-- The station's entry after the three counters. -/
theorem Live.countedAll_entry (h : lv.period.hasEntry r.number) (allowed infeed outfeed reject : Nat) :
    (lv.countedAll r allowed infeed outfeed reject).period.entry r.number =
      (((lv.period.entry r.number).counted allowed infeed fun e => { e with infeed := satAdd e.infeed infeed }).counted allowed outfeed
        fun e => { e with outfeed := satAdd e.outfeed outfeed }).counted allowed reject fun e => { e with rejects := satAdd e.rejects reject } := by
  obtain ⟨h1, e1⟩ := Live.entryBy_counted (allowed := allowed) (delta := infeed)
    (credit := fun lv => { lv with period := lv.period.creditInfeed r.number infeed }) (lv.entryBy_infeed r.number infeed) h
  obtain ⟨h2, e2⟩ := Live.entryBy_counted (allowed := allowed) (delta := outfeed) (credit := (·.creditOutfeed r outfeed))
    (Live.entryBy_outfeed _ r outfeed) h1
  obtain ⟨_, e3⟩ := Live.entryBy_counted (allowed := allowed) (delta := reject)
    (credit := fun lv => { lv with period := lv.period.creditReject r.number reject }) (Live.entryBy_reject _ r.number reject) h2
  rw [Live.countedAll, e3, e2, e1]

theorem Live.counted_uncredited {lv : Live} {n allowed delta : Nat} {credit : Live → Live} (hcredit : lv.Uncredited (credit lv)) :
    lv.Uncredited (lv.counted n allowed delta credit) := by
  unfold Live.counted
  split
  · exact hcredit
  · exact lv.discontinued_uncredited n

/-- The three counters change the totals as the outfeed's does. -/
theorem Live.countedAll_totals (lv : Live) (r : Station) (allowed infeed outfeed reject : Nat) :
    ∃ held, lv.Uncredited held
      ∧ (held.counted r.number allowed outfeed (·.creditOutfeed r outfeed)).Uncredited (lv.countedAll r allowed infeed outfeed reject) :=
  ⟨_, Live.counted_uncredited ⟨rfl, rfl, rfl, rfl, rfl⟩, Live.counted_uncredited ⟨rfl, rfl, rfl, rfl, rfl⟩⟩

end

/-! ## The counters of a report -/

section
variable {s : State} {ln : Line} {lv : Live} {r : Station} {previous : Option Tick} {v b : Counters} {restart : Bool}

/-- The record's baselines and gap expiry after a report. -/
def Station.counterSet (v : Counters) (now : Tick) (q : Station) : Station := { q with baselines := some v, gap := some (gapAfter now) }

theorem State.takeCounters_noBaselines (h : r.baselines = none) :
    s.takeCounters r previous v restart = s.updStation r.number (Station.counterSet v s.runClock) := by
  simp only [State.takeCounters, h]
  rfl

theorem State.takeCounters_restart (h : r.baselines = some b) :
    s.takeCounters r previous v true = (s.discontinuity r .all .stationRestart).updStation r.number (Station.counterSet v s.runClock) := by
  simp only [State.takeCounters, h]
  rfl

theorem State.takeCounters_gap (h : r.baselines = some b)
    (hgap : 65536 ≤ plausibleUpTo r.maxRate (s.runClock - previous.getD s.runClock).toNat ∨ r.gapTaken = true) :
    s.takeCounters r previous v false = (s.discontinuity r .all .gapTooLong).updStation r.number (Station.counterSet v s.runClock) := by
  simp only [State.takeCounters, h, if_pos hgap]
  rfl

theorem State.takeCounters_judged (h : r.baselines = some b) (hon : s.onLine r.line ln lv) {allowed : Nat}
    (hallowed : allowed = plausibleUpTo r.maxRate (s.runClock - previous.getD s.runClock).toNat) (hgap : ¬(65536 ≤ allowed ∨ r.gapTaken = true)) :
    s.takeCounters r previous v false =
      (((refusals allowed (v.infeed - b.infeed).toNat (v.outfeed - b.outfeed).toNat (v.reject - b.reject).toNat).foldl (State.tellRefusal r)
        s).setLine r.line (some { ln with
          live := some (lv.countedAll r allowed (v.infeed - b.infeed).toNat (v.outfeed - b.outfeed).toNat (v.reject - b.reject).toNat) })).updStation
        r.number (Station.counterSet v s.runClock) := by
  subst hallowed
  rw [← State.judgeCounters_onLine hon]
  simp only [State.takeCounters, h, if_neg hgap]
  rfl

theorem State.discontinuity_stations (c : CounterName) (why : DiscontinuityReason) : (s.discontinuity r c why).stations = s.stations := by
  rw [State.discontinuity, State.notify_stations, State.updLive_stations]

theorem State.judgeCounter_stations (c : CounterName) (allowed delta : Nat) (credit : Live → Live) :
    (s.judgeCounter r c allowed delta credit).stations = s.stations := by
  unfold State.judgeCounter
  split
  · rw [State.updLive_stations]
  · exact State.discontinuity_stations _ _

/-- The counters are judged outside the Station Table; then the record's baselines and gap expiry are set. -/
theorem State.takeCounters_updStation (s : State) (r : Station) (previous : Option Tick) (v : Counters) (restart : Bool) :
    ∃ u : State, s.takeCounters r previous v restart = u.updStation r.number (Station.counterSet v s.runClock) ∧ u.stations = s.stations := by
  refine ⟨_, rfl, ?_⟩
  split
  · rfl
  · dsimp only
    split
    · exact State.discontinuity_stations _ _
    · split
      · exact State.discontinuity_stations _ _
      · rw [State.judgeCounter_stations, State.judgeCounter_stations, State.judgeCounter_stations]

/-! ## The fields after the three counters -/

theorem StationEntry.counted_field {α : Type} (field : StationEntry → α) (h : ∀ e : StationEntry, field e.discontinued = field e)
    {e : StationEntry} {allowed n : Nat} {f : StationEntry → StationEntry} :
    field (e.counted allowed n f) = if n ≤ allowed then field (f e) else field e := by
  unfold StationEntry.counted
  split
  · rfl
  · exact h e

/-- A field that neither the credit nor a discontinuity touches. -/
theorem StationEntry.counted_untouched {α : Type} (field : StationEntry → α) (h : ∀ e : StationEntry, field e.discontinued = field e)
    {e : StationEntry} {allowed n : Nat} {f : StationEntry → StationEntry} (hf : ∀ e, field (f e) = field e) :
    field (e.counted allowed n f) = field e :=
  (StationEntry.counted_field field h).trans (by rw [hf]; exact ite_self _)

theorem StationEntry.counted_infeed (e : StationEntry) (allowed infeed outfeed reject : Nat) :
    (((e.counted allowed infeed fun e => { e with infeed := satAdd e.infeed infeed }).counted allowed outfeed
        fun e => { e with outfeed := satAdd e.outfeed outfeed }).counted allowed reject fun e => { e with rejects := satAdd e.rejects reject }).infeed
      = if infeed ≤ allowed then satAdd e.infeed infeed else e.infeed :=
  (StationEntry.counted_untouched (·.infeed) (fun _ => rfl) fun _ => by rfl).trans
    ((StationEntry.counted_untouched (·.infeed) (fun _ => rfl) fun _ => by rfl).trans (StationEntry.counted_field (·.infeed) fun _ => rfl))

theorem StationEntry.counted_outfeed (e : StationEntry) (allowed infeed outfeed reject : Nat) :
    (((e.counted allowed infeed fun e => { e with infeed := satAdd e.infeed infeed }).counted allowed outfeed
        fun e => { e with outfeed := satAdd e.outfeed outfeed }).counted allowed reject fun e => { e with rejects := satAdd e.rejects reject }).outfeed
      = if outfeed ≤ allowed then satAdd e.outfeed outfeed else e.outfeed :=
  (StationEntry.counted_untouched (·.outfeed) (fun _ => rfl) fun _ => by rfl).trans
    ((StationEntry.counted_field (·.outfeed) fun _ => rfl).trans
      (congrArg (fun n => if outfeed ≤ allowed then satAdd n outfeed else n)
        (StationEntry.counted_untouched (·.outfeed) (fun _ => rfl) fun _ => by rfl)))

theorem StationEntry.counted_rejects (e : StationEntry) (allowed infeed outfeed reject : Nat) :
    (((e.counted allowed infeed fun e => { e with infeed := satAdd e.infeed infeed }).counted allowed outfeed
        fun e => { e with outfeed := satAdd e.outfeed outfeed }).counted allowed reject fun e => { e with rejects := satAdd e.rejects reject }).rejects
      = if reject ≤ allowed then satAdd e.rejects reject else e.rejects :=
  (StationEntry.counted_field (·.rejects) fun _ => rfl).trans
    (congrArg (fun n => if reject ≤ allowed then satAdd n reject else n)
      ((StationEntry.counted_untouched (·.rejects) (fun _ => rfl) fun _ => by rfl).trans
        (StationEntry.counted_untouched (·.rejects) (fun _ => rfl) fun _ => by rfl)))

theorem StationEntry.counted_refusal {e : StationEntry} {allowed n : Nat} {f : StationEntry → StationEntry} (c : CounterName)
    (hf : (f e).discontinuities = e.discontinuities) :
    (e.counted allowed n f).discontinuities = (refusal allowed n c).foldl (fun n _ => satAdd n 1) e.discontinuities := by
  unfold StationEntry.counted refusal
  split
  · exact hf
  · rfl

/-- One discontinuity for each counter refused. -/
theorem StationEntry.counted_discontinuities (e : StationEntry) (allowed infeed outfeed reject : Nat) :
    (((e.counted allowed infeed fun e => { e with infeed := satAdd e.infeed infeed }).counted allowed outfeed
        fun e => { e with outfeed := satAdd e.outfeed outfeed }).counted allowed reject
          fun e => { e with rejects := satAdd e.rejects reject }).discontinuities
      = (refusals allowed infeed outfeed reject).foldl (fun n _ => satAdd n 1) e.discontinuities := by
  rw [StationEntry.counted_refusal .reject rfl, StationEntry.counted_refusal .outfeed rfl, StationEntry.counted_refusal .infeed rfl,
    refusals, List.foldl_append, List.foldl_append]

theorem Live.counted_credited {n allowed delta : Nat} (h : delta ≤ allowed) (credit : Live → Live) :
    lv.counted n allowed delta credit = credit lv := if_pos h

theorem Live.counted_refused {n allowed delta : Nat} (h : allowed < delta) (credit : Live → Live) :
    lv.counted n allowed delta credit = lv.discontinued n := if_neg (Nat.not_le.mpr h)

/-- The totals after the three counters, by the station's roles and whether the outfeed is credited (R78). -/
theorem Live.countedAll_roles (lv : Live) (r : Station) (allowed infeed outfeed reject : Nat) :
    (lv.countedAll r allowed infeed outfeed reject).condition = lv.condition
    ∧ (lv.countedAll r allowed infeed outfeed reject).period.classes = lv.period.classes
    ∧ (lv.countedAll r allowed infeed outfeed reject).period.constraintGood
      = (if r.constraint = true ∧ outfeed ≤ allowed then satAdd lv.period.constraintGood outfeed else lv.period.constraintGood)
    ∧ (lv.countedAll r allowed infeed outfeed reject).period.finishedGood
      = (if r.finish = true ∧ outfeed ≤ allowed then satAdd lv.period.finishedGood outfeed else lv.period.finishedGood)
    ∧ (lv.countedAll r allowed infeed outfeed reject).rate.window
      = (if r.constraint = true ∧ outfeed ≤ allowed then lv.rate.window.map fun w => { w with actual := w.actual + outfeed }
        else lv.rate.window) := by
  obtain ⟨held, before, after⟩ := lv.countedAll_totals r allowed infeed outfeed reject
  by_cases hallowed : outfeed ≤ allowed
  · rw [Live.counted_credited hallowed] at after
    obtain ⟨hcondition, hclasses, hconstraint, hfinish, hwindow⟩ := held.creditOutfeed_totals r outfeed
    simp only [hallowed, and_true]
    refine ⟨after.condition.trans (hcondition.trans before.condition), after.classes.trans (hclasses.trans before.classes), ?_, ?_, ?_⟩
    · rw [after.constraint, hconstraint, before.constraint]
    · rw [after.finish, hfinish, before.finish]
    · rw [after.window, hwindow, before.window]
  · rw [Live.counted_refused (Nat.not_le.mp hallowed)] at after
    simp only [hallowed, and_false, if_false]
    exact ⟨after.condition.trans before.condition, after.classes.trans before.classes, after.constraint.trans before.constraint,
      after.finish.trans before.finish, after.window.trans before.window⟩

/-! ## The gap expiry (R70) -/

variable {n : Nat} {g : GapExpiry}

theorem State.takeGapExpiry_reached (hr : s.station? n = some r) (hg : r.gap = some g) (hreached : reached g.expiry s.runClock = true) :
    s.takeGapExpiry n = s.updStation n fun q => { q with gap := some { g with taken := true } } := by
  simp only [State.takeGapExpiry, hr, hg, if_pos hreached]

theorem State.takeGapExpiry_early (hr : s.station? n = some r) (hg : r.gap = some g) (hearly : reached g.expiry s.runClock = false) :
    s.takeGapExpiry n = s := by
  simp only [State.takeGapExpiry, hr, hg, if_neg (Bool.eq_false_iff.mp hearly)]

theorem State.takeGapExpiry_none (h : ∀ r, s.station? n = some r → r.gap = none) : s.takeGapExpiry n = s := by
  cases hr : s.station? n with
  | none => simp only [State.takeGapExpiry, hr]
  | some r => simp only [State.takeGapExpiry, hr, h r hr]

end

/-- Settles O40: a report's counters without baselines, at a discontinuity of ALL, and judged one by one; and the gap expiry. -/
theorem countersAreCreditedOrRefused : Obligations.CountersAreCreditedOrRefused := by
  refine ⟨fun s r q previous v restart hq => ⟨?_, fun hnone => ?_, fun b ln lv hb hon hentry => ?_⟩, fun s n =>
    ⟨fun r g hr hg hreached => congrArg Host.Outcome.next (State.takeGapExpiry_reached hr hg hreached),
      fun r g hr hg hearly => congrArg Host.Outcome.next (State.takeGapExpiry_early hr hg hearly),
      fun h => congrArg Host.Outcome.next (State.takeGapExpiry_none h)⟩⟩
  · obtain ⟨u, heq, hstations⟩ := s.takeCounters_updStation r previous v restart
    have hfound : u.station? r.number = some q := by rwa [State.station?, hstations]
    rw [heq]
    exact State.updStation_station?_same hfound (State.station?_number (r := q) hq)
  · rw [State.takeCounters_noBaselines hnone]
    rfl
  cases restart with
  | true =>
    rw [State.takeCounters_restart hb, State.discontinuity_onLine hon]
    refine ⟨lv.discontinued r.number, State.line?_setLine_same .., rfl, rfl, fun _ =>
      ⟨(lv.entryBy_discontinued r.number hentry).2, rfl, rfl, rfl⟩, nofun, nofun⟩
  | false =>
    by_cases hgap : 65536 ≤ plausibleUpTo r.maxRate (s.runClock - previous.getD s.runClock).toNat ∨ r.gapTaken = true
    · rw [State.takeCounters_gap hb hgap, State.discontinuity_onLine hon]
      refine ⟨lv.discontinued r.number, State.line?_setLine_same .., rfl, rfl, nofun, fun _ _ =>
        ⟨(lv.entryBy_discontinued r.number hentry).2, rfl, rfl, rfl⟩, fun _ hnot hfew => ?_⟩
      exact (hgap.elim (Nat.not_le.mpr hfew) (Bool.eq_false_iff.mp hnot)).elim
    · rw [State.takeCounters_judged hb hon rfl hgap]
      have hplausible : plausibleUpTo r.maxRate (s.runClock - previous.getD s.runClock).toNat
        = (r.maxRate * (s.runClock - previous.getD s.runClock).toNat + 5999) / 6000 + 8 := rfl
      generalize plausibleUpTo r.maxRate (s.runClock - previous.getD s.runClock).toNat = allowed at *
      obtain ⟨hcondition, hclasses, hconstraint, hfinish, hwindow⟩ := lv.countedAll_roles r allowed (v.infeed - b.infeed).toNat
        (v.outfeed - b.outfeed).toNat (v.reject - b.reject).toNat
      have hfields := Live.countedAll_entry hentry allowed (v.infeed - b.infeed).toNat (v.outfeed - b.outfeed).toNat (v.reject - b.reject).toNat
      refine ⟨_, State.line?_setLine_same .., hcondition, hclasses, nofun, fun _ hbad => ?_, fun _ _ _ => ⟨?_, ?_, ?_, fun hrole hok => ?_,
        fun hrole => ?_, fun hrole hok => ?_, fun hrole => ?_, fun hbad => ?_, ?_⟩⟩
      · exact absurd (hbad.symm.imp_left (hplausible ▸ ·)) hgap
      · rw [hfields, StationEntry.counted_infeed]
      · rw [hfields, StationEntry.counted_outfeed]
      · rw [hfields, StationEntry.counted_rejects]
      · exact ⟨hconstraint.trans (if_pos ⟨hrole, hok⟩), hwindow.trans (if_pos ⟨hrole, hok⟩)⟩
      · exact ⟨hconstraint.trans (if_neg (by simp [hrole])), hwindow.trans (if_neg (by simp [hrole]))⟩
      · exact hfinish.trans (if_pos ⟨hrole, hok⟩)
      · exact hfinish.trans (if_neg (by simp [hrole]))
      · have hno : ¬(v.outfeed - b.outfeed).toNat ≤ allowed := Nat.not_le.mpr hbad
        exact ⟨hconstraint.trans (if_neg fun h => hno h.2), hfinish.trans (if_neg fun h => hno h.2), hwindow.trans (if_neg fun h => hno h.2)⟩
      · rintro refused rfl
        refine ⟨?_, rfl⟩
        rw [hfields, StationEntry.counted_discontinuities]
        rfl

end Sys2Proof.Machine
end

section
/-! The Station Table beside the Line Tracker: an offer leaves it; a record replaced, with its category's time charged (R15, R16). -/

namespace Sys2Proof.Machine

/-! ## The Line Tracker leaves the Station Table -/

section
variable {s : State} {l : Fin 8}

theorem State.withLive_stations {k : Line → Live → State} (h : ∀ ln lv, s.onLine l ln lv → (k ln lv).stations = s.stations) :
    (s.withLive l k).stations = s.stations := by
  unfold State.withLive
  split
  · rfl
  · next ln hline =>
    split
    · rfl
    · next lv hlive => exact h ln lv ⟨hline, hlive⟩

theorem State.confirmRestart_stations (s : State) (l : Fin 8) : (s.confirmRestart l).stations = s.stations := by
  refine State.withLive_stations fun ln lv _ => ?_
  split
  · split
    · rw [State.notify_stations, State.updLive_stations]
    · rfl
  all_goals rfl

theorem State.walkAgain_sameStations (s : State) (l : Fin 8) : (s.walkAgain l).stations = s.stations :=
  State.withLive_stations fun _ _ h => (congrArg State.stations (State.withLive_onLine h _)).symm.trans (State.walkAgain_stations h)

theorem State.offerReport_stations (s : State) (l : Fin 8) (r : Station) (x : Tick) : (s.offerReport l r x).stations = s.stations := by
  refine State.withLive_stations fun ln lv _ => ?_
  split
  · rfl
  · rfl
  · rfl
  · dsimp only
    split
    · split
      · exact State.updLive_stations ..
      · rfl
    · split
      · exact State.updLive_stations ..
      · rfl
    · split
      · exact State.updLive_stations ..
      · exact State.walkAgain_sameStations s l
    · split
      · exact (State.confirmRestart_stations _ l).trans (State.updLive_stations ..)
      · exact State.walkAgain_sameStations s l
    · split
      · exact (State.walkAgain_sameStations _ l).trans (State.updLive_stations ..)
      · rfl
    all_goals rfl

theorem State.closeStoppage_stations (st : Stoppage) (why : StopReason) : (s.closeStoppage l st why).stations = s.stations := by
  rw [State.closeStoppage, State.notify_stations, State.updLive_stations]

theorem State.loseConstraint_stations (d : LineDef) (lv : Live) : (s.loseConstraint l d lv).stations = s.stations := by
  unfold State.loseConstraint
  dsimp only
  split
  · exact State.updLive_stations ..
  · exact State.updLive_stations ..
  · rw [State.updLive_stations, State.closeStoppage_stations]
  · rw [State.updLive_stations, State.closeStoppage_stations]
  all_goals rfl

theorem State.offerSilent_stations (s : State) (l : Fin 8) (r : Station) : (s.offerSilent l r).stations = s.stations := by
  refine State.withLive_stations fun ln lv _ => ?_
  split
  · rfl
  · rfl
  · rfl
  · split
    · exact State.loseConstraint_stations _ _
    · exact State.walkAgain_sameStations s l

/-- An offer reads the constraint role and the reported state alone. -/
theorem State.offerReport_congr {r q : Station} (hrole : r.constraint = q.constraint) (hreported : r.reported = q.reported) (x : Tick) :
    s.offerReport l r x = s.offerReport l q x := by
  simp only [State.offerReport, hrole, hreported]

theorem State.offerSilent_congr {r q : Station} (hrole : r.constraint = q.constraint) : s.offerSilent l r = s.offerSilent l q := by
  simp only [State.offerSilent, hrole]

end

/-! ## A record replaced, and its category charged (R15, R16) -/

theorem modifyFirst_modifyFirst {α : Type} {p : α → Bool} {f g : α → α} (hf : ∀ a, p a = true → p (f a) = true) (as : List α) :
    modifyFirst p g (modifyFirst p f as) = modifyFirst p (g ∘ f) as := by
  induction as with
  | nil => rfl
  | cons a as ih =>
    by_cases ha : p a = true
    · simp only [modifyFirst, if_pos ha, if_pos (hf a ha)]
      rfl
    · simp only [modifyFirst, if_neg ha, ih]

section
variable {s : State} {n : Nat} {r q : Station}

theorem State.updStation_updStation {f g : Station → Station} (hf : ∀ q : Station, q.number = n → (f q).number = n) :
    (s.updStation n f).updStation n g = s.updStation n (g ∘ f) :=
  congrArg (fun stations => { s with stations := stations })
    (modifyFirst_modifyFirst (p := fun q : Station => q.number == n) (fun a ha => beq_iff_eq.mpr (hf a (beq_iff_eq.mp ha))) s.stations)

/-- The category's charge, as the account of the line makes it. -/
theorem State.categoryCharged_eq (s : State) (r : Station) :
    s.categoryCharged r = s.updLive r.line fun lv => { lv with period := lv.period.chargeStation s.runClock r } := by
  unfold State.categoryCharged
  refine congrArg (s.updLive r.line) (funext fun lv => ?_)
  refine congrArg (fun period => { lv with period := period }) ?_
  unfold Period.chargeStation
  cases r.accrualStart with
  | none => rfl
  | some a =>
    unfold Period.chargeCategory Station.category
    cases hlink : r.linkState with
    | reporting =>
      cases hreported : r.reported with
      | none => rfl
      | some st => cases st <;> rfl
    | _ => rfl

/-- The record is replaced and its category changes. -/
theorem State.recategorize_changed (hnumber : q.number = r.number) (hcategory : r.category ≠ q.category) :
    (s.updStation r.number fun _ => q).recategorize r q
      = (s.categoryCharged r).updStation r.number fun _ => { q with accrualStart := some s.runClock } := by
  rw [State.recategorize, if_neg hcategory, State.categoryCharged_eq]
  exact State.updStation_updStation (s := s.updLive r.line fun lv => { lv with period := lv.period.chargeStation s.runClock r })
    (f := fun _ => q) (g := fun q => { q with accrualStart := some s.runClock }) fun _ _ => hnumber

theorem State.recategorize_same (hcategory : r.category = q.category) : s.recategorize r q = s := if_pos hcategory

theorem State.notify_updStation (o : Option (Fin 8)) (b : NoticeBody) (f : Station → Station) :
    (s.notify o b).updStation n f = (s.updStation n f).notify o b := by
  have hframe := State.notify_congr (s := s) (t := s.updStation n f) o b rfl rfl rfl rfl
  rw [State.notify_touches s, State.notify_touches (s.updStation n f), hframe.1, hframe.2]
  rfl

theorem State.recategorize_notify (o : Option (Fin 8)) (b : NoticeBody) : (s.notify o b).recategorize r q = (s.recategorize r q).notify o b := by
  unfold State.recategorize
  split
  · rfl
  · rw [State.notify_runClock, State.notify_updLive, State.notify_updStation]

end

end Sys2Proof.Machine
end

section
/-! What a miss and a good reply do (R9–R17): `State.miss` is `State.tookMiss`, and `State.goodReply` is `State.tookGood`. -/

namespace Sys2Proof.Machine

/-! ## A miss (R11–R13) -/

section
variable {s : State} {r : Station}

/-- The record that is declared SILENT now. -/
def Station.silenced (r : Station) (now : Tick) : Station :=
  { r with linkState := .silent, missRun := min (r.missRun + 1) 255, goodRun := 0, accrualStart := some now }

theorem Station.category_reporting (h : r.linkState = .reporting) : r.category ≠ .unseen := by
  unfold Station.category
  rw [h]
  dsimp only
  split <;> nofun

/-- A REPORTING station is declared SILENT, in the order of R12. -/
theorem State.declareSilent_eq (hlink : r.linkState = .reporting) : s.declareSilent r =
    ((((s.categoryCharged r).updStation r.number fun _ => r.silenced s.runClock).notify (some r.line)
      (.stationSilent r.number r.lastApplied)).latch .link).offerSilent r.line (r.silenced s.runClock) := by
  have hcategory : r.category ≠ ({ r with linkState := .silent, missRun := missUp r.missRun, goodRun := 0 } : Station).category :=
    Station.category_reporting hlink
  rw [State.declareSilent, State.recategorize_changed (by rfl) hcategory]
  exact State.offerSilent_congr rfl

theorem State.miss_unknown (h : r.linkState = .unknown) :
    s.miss r = s.updStation r.number fun q => { q with missRun := min (r.missRun + 1) 255 } := by
  simp only [State.miss, h, missUp]

theorem State.miss_silent (h : r.linkState = .silent) :
    s.miss r = s.updStation r.number fun q => { q with missRun := min (r.missRun + 1) 255, goodRun := 0 } := by
  simp only [State.miss, h, missUp]

theorem State.miss_below (h : r.linkState = .reporting) (hrun : r.missRun + 1 < (s.link r.link).missThreshold) :
    s.miss r = s.updStation r.number fun q => { q with missRun := min (r.missRun + 1) 255 } := by
  simp only [State.miss, h]
  exact if_neg (Nat.not_le.mpr hrun)

theorem State.miss_reached (h : r.linkState = .reporting) (hrun : (s.link r.link).missThreshold ≤ r.missRun + 1) :
    s.miss r = s.declareSilent r := by
  simp only [State.miss, h]
  exact if_pos hrun

theorem State.declareSilent_station? (hr : s.station? r.number = some r) (hlink : r.linkState = .reporting) :
    (s.declareSilent r).station? r.number = some (r.silenced s.runClock) := by
  have hcharged : (s.categoryCharged r).station? r.number = some r := by
    rw [State.categoryCharged_eq]
    exact hr
  rw [State.declareSilent_eq hlink, State.station?, State.offerSilent_stations, State.latch_stations, State.notify_stations]
  exact State.updStation_station?_same hcharged rfl

/-- The record after a miss. -/
theorem State.miss_station? (hr : s.station? r.number = some r) :
    ∃ q, (s.miss r).station? r.number = some q ∧ r.tookMiss q (s.link r.link).missThreshold := by
  cases hlink : r.linkState with
  | unknown =>
    rw [State.miss_unknown hlink]
    refine ⟨_, State.updStation_station?_same hr rfl, rfl, ?_, ?_, rfl, fun _ => rfl⟩
    · rw [if_neg (by rw [hlink]; nofun)]
    · rw [if_neg (show r.linkState ≠ .silent by rw [hlink]; nofun)]
  | silent =>
    rw [State.miss_silent hlink]
    refine ⟨_, State.updStation_station?_same hr rfl, rfl, ?_, ?_, rfl, fun _ => rfl⟩
    · rw [if_neg (by rw [hlink]; nofun)]
    · rw [if_pos (show r.linkState = .silent from hlink)]
  | reporting =>
    by_cases hrun : (s.link r.link).missThreshold ≤ r.missRun + 1
    · rw [State.miss_reached hlink hrun, State.declareSilent_station? hr hlink]
      refine ⟨_, rfl, rfl, ?_, rfl, rfl, fun hsame => ?_⟩
      · rw [if_pos ⟨hlink, hrun⟩]
        rfl
      · rw [hlink] at hsame
        cases hsame
    · rw [State.miss_below hlink (Nat.not_le.mp hrun)]
      refine ⟨_, State.updStation_station?_same hr rfl, rfl, ?_, ?_, rfl, fun _ => rfl⟩
      · rw [if_neg fun h => hrun h.2]
      · rw [if_neg (show r.linkState ≠ .silent by rw [hlink]; nofun)]

theorem State.miss_tookMiss (hr : s.station? r.number = some r) : s.tookMiss (s.miss r) r := by
  refine ⟨State.miss_unknown, State.miss_silent, State.miss_below, fun hlink hrun q hq => ?_, State.miss_station? hr⟩
  subst hq
  rw [State.miss_reached hlink hrun]
  exact State.declareSilent_eq hlink

end

/-! ## A good reply (R9–R13, R17) -/

section
variable {s : State} {r : Station} {rep : Report}

theorem Station.changedBy_iff : r.changedBy rep = true ↔ r.reported ≠ some rep.state ∨ (rep.state = .fault ∧ r.faultCode ≠ rep.code)
    ∨ (rep.state = .operatorStop ∧ r.reasonCode ≠ rep.code) := by
  unfold Station.changedBy
  cases r.reported with
  | none => simp
  | some st => simp [or_assoc]

theorem Station.runEdge_iff : r.runEdge rep = true ↔ ∃ st, r.reported = some st ∧ (st = .run ↔ rep.state ≠ .run) := by
  unfold Station.runEdge
  cases r.reported with
  | none => simp
  | some st =>
    by_cases hst : st = .run
    · simp [hst]
    · have hleft : (st == .run) = false := beq_eq_false_iff_ne.mpr hst
      simp [hst, hleft]

/-- A REPORTING constraint's change is a RUN edge: its instant is placed back. -/
def Station.placesBack (r : Station) (rep : Report) : Prop :=
  r.constraint = true ∧ r.linkState = .reporting ∧ ∃ st, r.reported = some st ∧ (st = .run ↔ rep.state ≠ .run)

theorem Station.placesBack_iff : r.placesBack rep ↔ (r.constraint && r.linkState == .reporting && r.runEdge rep) = true := by
  rw [Station.placesBack, Bool.and_eq_true, Bool.and_eq_true, beq_iff_eq, Station.runEdge_iff, and_assoc]

theorem Station.backdating_live (lv : Live) (now : Tick) : r.backdating rep now (some lv) = r.placedBack rep now lv := by
  unfold Station.backdating Station.placedBack Station.gapTaken
  cases r.lastApplied with
  | none => rfl
  | some a =>
    cases r.gap with
    | none => rfl
    | some g =>
      obtain ⟨_, taken⟩ := g
      cases taken with
      | _ => rfl

theorem Station.backdating_le (o : Option Live) (now : Tick) : r.backdating rep now o ≤ rep.age := by
  unfold Station.backdating
  cases o with
  | none => exact Nat.min_le_left _ _
  | some lv => exact Nat.le_trans (Nat.min_le_left _ _) (Nat.min_le_left _ _)

theorem Station.instantOf_placed (h : r.placesBack rep) (o : Option Live) (now : Tick) :
    r.instantOf rep now o = now - ticks (r.backdating rep now o) := if_pos (Station.placesBack_iff.mp h)

theorem Station.instantOf_now (h : ¬r.placesBack rep) (o : Option Live) (now : Tick) : r.instantOf rep now o = now :=
  if_neg (mt Station.placesBack_iff.mpr h)

/-- The state-change instant lies at most the report's age back. -/
theorem Station.instantOf_within (o : Option Live) (now : Tick) : (now - r.instantOf rep now o).toNat ≤ rep.age := by
  by_cases h : r.placesBack rep
  · have hback : ∀ n : Tick, now - (now - n) = n := fun n => by bv_omega
    rw [Station.instantOf_placed h, hback, ticks, BitVec.toNat_ofNat]
    exact Nat.le_trans (Nat.mod_le _ _) (Station.backdating_le o now)
  · rw [Station.instantOf_now h, BitVec.sub_self]
    exact Nat.zero_le _

/-- The report leaves the record in its category. -/
def Station.keepsCategory (r : Station) (rep : Report) : Bool :=
  r.category = if rep.state = .fault ∨ rep.state = .operatorStop then .halted else .neither

theorem Station.applied_category (now x : Tick) :
    (r.applied rep now x).category = if rep.state = .fault ∨ rep.state = .operatorStop then .halted else .neither := by
  simp only [Station.category, Station.applied]
  cases rep.state <;> rfl

theorem Station.keepsCategory_eq (now x : Tick) : r.keepsCategory rep = true ↔ r.category = (r.applied rep now x).category := by
  rw [Station.applied_category, Station.keepsCategory, decide_eq_true_iff]

theorem Station.category_of_reporting (h : r.linkState = .reporting) :
    r.category = if r.reported = some .fault ∨ r.reported = some .operatorStop then .halted else .neither := by
  unfold Station.category
  rw [h]
  cases r.reported with
  | none => rfl
  | some st => cases st <;> rfl

theorem Station.keepsCategory_iff : r.keepsCategory rep = true ↔ r.linkState = .reporting ∧
    ((r.reported = some .fault ∨ r.reported = some .operatorStop) ↔ (rep.state = .fault ∨ rep.state = .operatorStop)) := by
  rw [Station.keepsCategory, decide_eq_true_iff]
  by_cases hlink : r.linkState = .reporting
  · rw [Station.category_of_reporting hlink]
    by_cases h1 : r.reported = some .fault ∨ r.reported = some .operatorStop
    all_goals
      by_cases h2 : rep.state = .fault ∨ rep.state = .operatorStop
      all_goals simp [hlink, h1, h2]
  · have hunseen : r.category = .unseen := by
      unfold Station.category
      cases h : r.linkState with
      | reporting => exact absurd h hlink
      | _ => rfl
    rw [hunseen]
    split
    all_goals simp [hlink]

/-- The record applied, its category's time charged where the category changes. -/
def Station.appliedAt (r : Station) (rep : Report) (now x : Tick) : Station :=
  { r.applied rep now x with accrualStart := if r.keepsCategory rep then r.accrualStart else some now }

/-- The record as it stands in the table before the counters. -/
def State.recorded (s : State) (r : Station) (rep : Report) (x : Tick) : State :=
  (if r.keepsCategory rep then s else s.categoryCharged r).updStation r.number fun _ => r.appliedAt rep s.runClock x

theorem State.recategorize_recorded (x : Tick) :
    (s.updStation r.number fun _ => r.applied rep s.runClock x).recategorize r (r.applied rep s.runClock x) = s.recorded r rep x := by
  unfold State.recorded Station.appliedAt
  by_cases h : r.keepsCategory rep = true
  · rw [if_pos h, if_pos h]
    exact State.recategorize_same ((Station.keepsCategory_eq _ _).mp h)
  · rw [if_neg h, if_neg h]
    exact State.recategorize_changed rfl (mt (Station.keepsCategory_eq _ _).mpr h)

/-- The record, and the notice of a return. -/
def State.returned (s : State) (r : Station) (rep : Report) (x : Tick) : State :=
  if r.linkState = .silent then (s.recorded r rep x).notify (some r.line) (.stationReporting r.number s.runClock) else s.recorded r rep x

theorem State.recategorize_returned (x : Tick) : (if r.linkState = .silent then
      (s.updStation r.number fun _ => r.applied rep s.runClock x).notify (some r.line) (.stationReporting r.number s.runClock)
    else s.updStation r.number fun _ => r.applied rep s.runClock x).recategorize r (r.applied rep s.runClock x) = s.returned r rep x := by
  unfold State.returned
  split
  · rw [State.recategorize_notify, State.recategorize_recorded]
  · exact State.recategorize_recorded x

/-- The state before the offer: the record, the notice of a return, the counters. -/
def State.counted (s : State) (r : Station) (rep : Report) (x : Tick) : State :=
  (s.returned r rep x).takeCounters r r.lastApplied rep.counters rep.restart

theorem State.applyReport_eq {x : Tick} (hx : x = r.instantOf rep s.runClock (s.live? r.line)) : s.applyReport r rep =
    if r.changedBy rep = true ∨ r.linkState ≠ .reporting then (s.counted r rep x).offerReport r.line (r.appliedAt rep s.runClock x) x
    else s.counted r rep x := by
  have hoffer : ∀ u : State, u.offerReport r.line (r.applied rep s.runClock x) x = u.offerReport r.line (r.appliedAt rep s.runClock x) x :=
    fun u => State.offerReport_congr rfl rfl x
  unfold State.applyReport State.counted
  dsimp only
  rw [← hx, State.recategorize_returned, hoffer]
  simp only [Bool.or_eq_true, bne_iff_ne]

/-! ## The record after a good reply -/

theorem State.recorded_station? (hr : s.station? r.number = some r) (x : Tick) :
    (s.recorded r rep x).station? r.number = some (r.appliedAt rep s.runClock x) := by
  refine State.updStation_station?_same (r := r) ?_ rfl
  split
  · exact hr
  · rw [State.categoryCharged_eq]
    exact hr

theorem State.recorded_runClock (x : Tick) : (s.recorded r rep x).runClock = s.runClock := by
  unfold State.recorded
  split <;> rfl

theorem State.returned_station? (hr : s.station? r.number = some r) (x : Tick) :
    (s.returned r rep x).station? r.number = some (r.appliedAt rep s.runClock x) := by
  unfold State.returned
  split
  · rw [State.station?, State.notify_stations]
    exact State.recorded_station? hr x
  · exact State.recorded_station? hr x

theorem State.returned_runClock (x : Tick) : (s.returned r rep x).runClock = s.runClock := by
  unfold State.returned
  split
  · rw [State.notify_runClock, State.recorded_runClock]
  · exact State.recorded_runClock x

theorem State.counted_station? (hr : s.station? r.number = some r) (x : Tick) :
    (s.counted r rep x).station? r.number = some ((r.appliedAt rep s.runClock x).counterSet rep.counters s.runClock) := by
  obtain ⟨u, heq, hstations⟩ := (s.returned r rep x).takeCounters_updStation r r.lastApplied rep.counters rep.restart
  have hfound : u.station? r.number = some (r.appliedAt rep s.runClock x) := by
    rw [State.station?, hstations]
    exact State.returned_station? hr x
  rw [State.counted, heq, State.returned_runClock]
  exact State.updStation_station?_same hfound rfl

theorem State.applyReport_station? (hr : s.station? r.number = some r) {x : Tick} (hx : x = r.instantOf rep s.runClock (s.live? r.line)) :
    (s.applyReport r rep).station? r.number = some ((r.appliedAt rep s.runClock x).counterSet rep.counters s.runClock) := by
  rw [State.applyReport_eq hx]
  split
  · rw [State.station?, State.offerReport_stations]
    exact State.counted_station? hr x
  · exact State.counted_station? hr x

/-- The good reply is counted toward a return, and no more. -/
def Station.staysSilent (r : Station) (returnThreshold : Nat) : Prop := r.linkState = .silent ∧ r.goodRun + 1 < returnThreshold

theorem State.goodReply_counted (h : r.staysSilent (s.link r.link).returnThreshold) :
    s.goodReply r rep = s.updStation r.number fun q => { q with goodRun := r.goodRun + 1 } := by
  obtain ⟨hlink, hrun⟩ := h
  simp only [State.goodReply, hlink]
  exact if_neg (Nat.not_le.mpr hrun)

theorem State.goodReply_applied (h : ¬r.staysSilent (s.link r.link).returnThreshold) : s.goodReply r rep = s.applyReport r rep := by
  cases hlink : r.linkState with
  | silent =>
    simp only [State.goodReply, hlink]
    exact if_pos (Nat.le_of_not_lt fun hrun => h ⟨hlink, hrun⟩)
  | _ => simp only [State.goodReply, hlink]

/-- The record after a good reply. -/
theorem State.goodReply_station? (hr : s.station? r.number = some r) : ∃ q, (s.goodReply r rep).station? r.number = some q
    ∧ r.tookGood q rep (s.link r.link).returnThreshold s.runClock := by
  by_cases h : r.linkState = .silent ∧ r.goodRun + 1 < (s.link r.link).returnThreshold
  · rw [State.goodReply_counted h]
    exact ⟨_, State.updStation_station?_same hr rfl, (if_pos h).mpr rfl⟩
  · rw [State.goodReply_applied h, State.applyReport_station? hr rfl]
    refine ⟨_, rfl, (if_neg h).mpr ⟨rfl, fun hsame => ?_, fun hchanged =>
      ⟨r.instantOf rep s.runClock (s.live? r.line), ?_, Station.instantOf_within _ _⟩⟩⟩
    · exact if_neg (Bool.eq_false_iff.mp hsame)
    · exact if_pos hchanged

theorem State.goodReply_tookGood (hr : s.station? r.number = some r) : s.tookGood (s.goodReply r rep) r rep := by
  refine ⟨State.goodReply_counted, fun h => ?_, State.goodReply_station? hr⟩
  refine ⟨r.instantOf rep s.runClock (s.live? r.line), _, r.changedBy rep, r.keepsCategory rep, _, _, Station.changedBy_iff,
    Station.keepsCategory_iff, fun hplaced lv hlive => ?_, fun hnow => Station.instantOf_now hnow _ _, rfl, rfl, rfl, ?_⟩
  · rw [Station.instantOf_placed hplaced, hlive, Station.backdating_live]
  · rw [State.goodReply_applied h]
    exact State.applyReport_eq rfl

end

end Sys2Proof.Machine
end

section
/-! INJECT_REPORT (R164, R165): its checks in their order, the report or miss injected, its response; and the obligation about it. -/

namespace Sys2Proof.Machine

section
variable {p : List Byte} {s : State} {r : Station} {rep : Report}

theorem ReportedState.code_le (st : ReportedState) : st.code ≤ 6 := by cases st <;> decide

theorem ReportedState.ofCode_code (st : ReportedState) : ReportedState.ofCode st.code = some st := by cases st <;> rfl

theorem ReportedState.ofCode_le {n : Nat} (h : n ≤ 6) : ∃ st : ReportedState, ReportedState.ofCode n = some st ∧ st.code = n := by
  match n, h with
  | 0, _ => exact ⟨.off, rfl, rfl⟩
  | 1, _ => exact ⟨.run, rfl, rfl⟩
  | 2, _ => exact ⟨.starved, rfl, rfl⟩
  | 3, _ => exact ⟨.blocked, rfl, rfl⟩
  | 4, _ => exact ⟨.fault, rfl, rfl⟩
  | 5, _ => exact ⟨.operatorStop, rfl, rfl⟩
  | 6, _ => exact ⟨.changeover, rfl, rfl⟩

theorem injectReport_configuring (hc : s.partState = .configuring) : injectReport p s = (s, .refuse .wrongState) := by
  simp only [injectReport, hc]

theorem injectReport_badValue (hm : s.partState = .monitoring) {field : Nat} (h : injectFailing p = some field) :
    injectReport p s = (s, .badValue field) := by
  simp only [injectReport, hm, h]

/-- The fields of the payload are in range. -/
def injectInRange (p : List Byte) : Prop := u8 p 0 ≤ 95 ∧ u8 p 1 ≤ 6 ∧ u8 p 10 ≤ 1 ∧ u8 p 11 ≤ 1

theorem injectFailing_none (h : injectInRange p) : injectFailing p = none := by
  obtain ⟨hstation, hstate, hrestart, hmiss⟩ := h
  rw [injectFailing, if_neg (by omega), if_neg (by omega), if_neg (by omega), if_neg (by omega)]

/-- The report that an injection in range carries. -/
theorem exists_injectedReport (h : injectInRange p) : ∃ rep : Report, injectedReport p = some rep ∧ ∀ other : Report,
    other.state.code = u8 p 1 → other.restart = (u8 p 10 == 1) → other.code = u8 p 2 → other.age = u8 p 3 →
    other.counters = { infeed := BitVec.ofNat 16 (u16 p 4), outfeed := BitVec.ofNat 16 (u16 p 6), reject := BitVec.ofNat 16 (u16 p 8) } →
    other = rep := by
  obtain ⟨_, hstate, _⟩ := h
  obtain ⟨st, hst, _⟩ := ReportedState.ofCode_le hstate
  refine ⟨_, by rw [injectedReport, hst, Option.map_some], ?_⟩
  rintro ⟨state, restart, code, age, counters⟩ hcode hrestart hcode' hage hcounters
  have hsame : st = state := by
    dsimp only at hcode
    rw [← hcode, ReportedState.ofCode_code] at hst
    exact (Option.some.inj hst).symm
  dsimp only at hrestart hcode' hage hcounters
  rw [hsame, hrestart, hcode', hage, hcounters]

section
variable (hm : s.partState = .monitoring) (hrange : injectInRange p) (hrep : injectedReport p = some rep)
include hm hrange hrep

theorem injectReport_notFound (h : s.station? (u8 p 0) = none) : injectReport p s = (s, .refuse .notFound) := by
  simp only [injectReport, hm, injectFailing_none hrange, hrep, h]

theorem injectReport_notRehearsing (hr : s.station? (u8 p 0) = some r) (h : s.rehearsing r.line = false) :
    injectReport p s = (s, .refuse .notRehearsing) := by
  simp only [injectReport, hm, injectFailing_none hrange, hrep, hr, h]
  rfl

theorem injectReport_miss (hr : s.station? (u8 p 0) = some r) (h : s.rehearsing r.line = true) (hmiss : u8 p 11 = 1) :
    injectReport p s = (s.miss r, .ok (injectPayload true ((s.miss r).station? r.number) s.runClock)) := by
  simp only [injectReport, hm, injectFailing_none hrange, hrep, hr, h, hmiss]
  rfl

theorem injectReport_good (hr : s.station? (u8 p 0) = some r) (h : s.rehearsing r.line = true) (hmiss : u8 p 11 = 0) :
    injectReport p s = (s.goodReply r rep, .ok (injectPayload false ((s.goodReply r rep).station? r.number) s.runClock)) := by
  simp only [injectReport, hm, injectFailing_none hrange, hrep, hr, h, hmiss]
  rfl

end

/-- The payload of an accepted injection, by the record after it. -/
theorem injectPayload_some (miss : Bool) (q : Station) (now : Tick) : injectPayload miss (some q) now =
    enc1 (if miss then 2 else if q.linkState = .silent then 1 else 0) ++ enc1 q.linkState.code ++ enc1 q.missRun ++ enc1 q.goodRun
      ++ encTick now := rfl

end

/-- Settles O49: the checks of INJECT_REPORT in their order; then a miss as `State.tookMiss`, a report as `State.tookGood`. -/
theorem injectReportActsAsAReply : Obligations.InjectReportActsAsAReply := by
  intro s p hready hlen
  have hform : p.length ∈ [12] := by simp [hlen]
  refine ⟨fun hc => exec_of_requestBlock rfl hready hform (injectReport_configuring hc), fun hm => ?_⟩
  have refused : ∀ field, injectFailing p = some field → exec (.injectReport p) s = .next (s.respond 0x14#8 (.badValue field)) :=
    fun field h => exec_of_requestBlock rfl hready hform (injectReport_badValue hm h)
  refine ⟨fun hstation => refused 1 (if_pos hstation), fun hstation hstate => refused 2 ?_, fun hstation hstate hrestart => refused 8 ?_,
    fun hstation hstate hrestart hmiss => refused 9 ?_, fun hstation hstate hrestart hmiss => ?_⟩
  · rw [injectFailing, if_neg (by omega), if_pos hstate]
  · rw [injectFailing, if_neg (by omega), if_neg (by omega), if_pos hrestart]
  · rw [injectFailing, if_neg (by omega), if_neg (by omega), if_neg (by omega), if_pos hmiss]
  have hrange : injectInRange p := ⟨hstation, hstate, hrestart, hmiss⟩
  obtain ⟨rep, hrep, hunique⟩ := exists_injectedReport hrange
  refine ⟨fun hnone => exec_of_requestBlock rfl hready hform (injectReport_notFound hm hrange hrep hnone), fun r hr =>
    ⟨fun hrehearse => exec_of_requestBlock rfl hready hform (injectReport_notRehearsing hm hrange hrep hr hrehearse), fun hrehearse => ?_⟩⟩
  have hnumber := State.station?_number hr
  have hself : s.station? r.number = some r := hnumber ▸ hr
  by_cases hset : u8 p 11 = 1
  · obtain ⟨q, hq, htook⟩ := State.miss_station? hself
    have htouch : Touch (.ofLine r.line) s (s.miss r) := .miss ⟨hself, rfl⟩
    have hblock := injectReport_miss hm hrange hrep hr hrehearse hset
    rw [hq, injectPayload_some] at hblock
    exact ⟨_, q, 2, exec_of_requestBlock rfl hready hform hblock, hnumber ▸ hq, fun _ => ⟨rfl, State.miss_tookMiss hself, htook⟩,
      fun hclear => absurd (hset.symm.trans hclear) (by decide), htouch.sameBeside, htouch.links_same fun _ => id,
      htouch.triggers_same fun _ => id, htouch.frame.plant, htouch.frame.host⟩
  · obtain ⟨q, hq, htook⟩ := State.goodReply_station? (rep := rep) hself
    have htouch : Touch (.ofLine r.line) s (s.goodReply r rep) := .goodReply ⟨hself, rfl⟩ rep
    have hblock := injectReport_good hm hrange hrep hr hrehearse (by omega)
    rw [hq, injectPayload_some] at hblock
    refine ⟨_, q, if q.linkState = .silent then 1 else 0, exec_of_requestBlock rfl hready hform hblock, hnumber ▸ hq, fun hmiss => absurd hmiss hset,
      fun _ => ⟨rfl, fun other hcode hrestart' hcode' hage hcounters => ?_⟩, htouch.sameBeside, htouch.links_same fun _ => id,
      htouch.triggers_same fun _ => id, htouch.frame.plant, htouch.frame.host⟩
    rw [hunique other hcode hrestart' hcode' hage hcounters]
    exact ⟨State.goodReply_tookGood hself, htook⟩

end Sys2Proof.Machine
end

section
/-! A link put back, and the end of a slot: the rules of `State.putLink`, what the completion of a round does (`State.roundOver`), and the end of a
slot (`State.slotOver`). -/

namespace Sys2Proof.Machine

/-! ## A link put back -/

/-- The link put back. -/
def State.putLink (s : State) (k : Fin 4) (L : Link) : State := { s with links := s.links.set k L }

section
variable {s : State} {k : Fin 4}

theorem State.updLink_eq (s : State) (k : Fin 4) (f : Link → Link) : s.updLink k f = s.putLink k (f (s.link k)) := rfl

@[simp] theorem State.putLink_link (s : State) (k : Fin 4) (L : Link) : (s.putLink k L).link k = L := by
  simp [State.putLink, State.link]

theorem State.putLink_other {k' : Fin 4} (h : k' ≠ k) (L : Link) : (s.putLink k L).link k' = s.link k' := by
  have hne : k.val ≠ k'.val := fun e => h (Fin.ext e.symm)
  simp [State.putLink, State.link, hne]

@[simp] theorem State.putLink_putLink (s : State) (k : Fin 4) (L M : Link) : (s.putLink k L).putLink k M = s.putLink k M := by
  simp [State.putLink]

@[simp] theorem State.putLink_self (s : State) (k : Fin 4) : s.putLink k (s.link k) = s := by
  simp [State.putLink, State.link]

theorem State.notify_putLink (s : State) (o : Option (Fin 8)) (n : NoticeBody) (k : Fin 4) (L : Link) :
    (s.notify o n).putLink k L = (s.putLink k L).notify o n := by
  have ⟨hjournal, hattention⟩ := State.notify_congr (s := s) (t := s.putLink k L) o n rfl rfl rfl rfl
  rw [State.notify_touches s, State.notify_touches (s.putLink k L), hjournal, hattention]
  rfl

@[simp] theorem State.notify_link (s : State) (o : Option (Fin 8)) (n : NoticeBody) (k : Fin 4) : (s.notify o n).link k = s.link k :=
  congrArg (·[k]) (State.notify_links s o n)

@[simp] theorem State.latch_link (s : State) (f : AttentionFlag) (k : Fin 4) : (s.latch f).link k = s.link k := rfl

/-- A link put back after a notice. -/
theorem State.putLink_told (s : State) (k : Fin 4) (L : Link) (n : NoticeBody) (f : Link → Link) :
    ((s.putLink k L).notify none n).updLink k f = (s.putLink k (f L)).notify none n := by
  rw [State.updLink_eq, State.notify_link, State.putLink_link, State.notify_putLink, State.putLink_putLink]

/-- A link put back after a notice that latches. -/
theorem State.putLink_toldLatched (s : State) (k : Fin 4) (L : Link) (n : NoticeBody) (f : Link → Link) :
    (((s.putLink k L).notify none n).latch .link).updLink k f = ((s.putLink k (f L)).notify none n).latch .link :=
  congrArg (·.latch .link) (State.putLink_told s k L n f)

end

/-! ## Changes of one link, the Journal and the flags -/

/-- One link, the Journal and the flags change, and nothing else. -/
def State.OnlyLink (s t : State) (k : Fin 4) : Prop :=
  ∃ L journal attention, t = { s with links := s.links.set k L, journal := journal, attention := attention }

section
variable {s t u : State} {k : Fin 4}

theorem State.OnlyLink.refl (s : State) (k : Fin 4) : s.OnlyLink s k :=
  ⟨s.link k, s.journal, s.attention, (State.putLink_self s k).symm⟩

theorem State.OnlyLink.trans (h : s.OnlyLink u k) (h' : u.OnlyLink t k) : s.OnlyLink t k := by
  obtain ⟨_, _, _, rfl⟩ := h
  obtain ⟨L, journal, attention, rfl⟩ := h'
  exact ⟨L, journal, attention, by simp⟩

theorem State.OnlyLink.putLink (h : s.OnlyLink t k) (L : Link) : s.OnlyLink (t.putLink k L) k :=
  h.trans ⟨L, t.journal, t.attention, rfl⟩

theorem State.OnlyLink.notify (h : s.OnlyLink t k) (o : Option (Fin 8)) (n : NoticeBody) : s.OnlyLink (t.notify o n) k := by
  refine h.trans ⟨t.link k, (t.notify o n).journal, (t.notify o n).attention, ?_⟩
  have hself : t.links.set k (t.link k) = t.links := congrArg State.links (State.putLink_self t k)
  rw [hself]
  exact State.notify_touches t o n

theorem State.OnlyLink.latch (h : s.OnlyLink t k) (f : AttentionFlag) : s.OnlyLink (t.latch f) k := by
  obtain ⟨L, journal, attention, rfl⟩ := h
  exact ⟨L, journal, attention.latch f, rfl⟩

theorem State.OnlyLink.frame (h : s.OnlyLink t k) : t = { s with links := t.links, journal := t.journal, attention := t.attention } := by
  obtain ⟨_, _, _, rfl⟩ := h
  rfl

theorem State.OnlyLink.other (h : s.OnlyLink t k) {k' : Fin 4} (hk : k' ≠ k) : t.link k' = s.link k' := by
  obtain ⟨L, _, _, rfl⟩ := h
  exact State.putLink_other hk L

theorem State.OnlyLink.stations (h : s.OnlyLink t k) : t.stations = s.stations := by
  obtain ⟨_, _, _, rfl⟩ := h
  rfl

theorem State.OnlyLink.lines (h : s.OnlyLink t k) : t.lines = s.lines := by
  obtain ⟨_, _, _, rfl⟩ := h
  rfl

theorem State.OnlyLink.runClock (h : s.OnlyLink t k) : t.runClock = s.runClock := by
  obtain ⟨_, _, _, rfl⟩ := h
  rfl

end

/-! ## A dead round (R153, R154) -/

section
variable {s : State} {k : Fin 4}

theorem State.faultLink_eq (s : State) (k : Fin 4) (why : LinkFault) : s.faultLink k why =
    ((s.putLink k { s.link k with state := .fault why, deadRounds := 0 }).notify none (.linkFault k why)).latch .link := rfl

theorem State.deadRound_active (h : (s.link k).state = .active) : s.deadRound k = s.faultLink k .noReplies := by
  simp only [State.deadRound, h]

theorem State.deadRound_idle (h : (s.link k).state = .idle) : s.deadRound k = s := by simp only [State.deadRound, h]

theorem State.deadRound_hunt (h : (s.link k).state = .hunt) : s.deadRound k = s.deadHunt k := by simp only [State.deadRound, h]

theorem State.deadRound_fault {w : LinkFault} (h : (s.link k).state = .fault w) : s.deadRound k = s.deadFault k := by
  simp only [State.deadRound, h]

theorem State.deadHunt_faults (h : ((s.link k).polarityMode ≠ .auto ∧ 2 ≤ (s.link k).deadRounds)
    ∨ ((s.link k).polarityMode = .auto ∧ 5 ≤ (s.link k).deadRounds)) : s.deadHunt k = s.faultLink k .noReplies := by
  unfold State.deadHunt
  cases hm : (s.link k).polarityMode with
  | auto =>
    have hmany : 5 ≤ (s.link k).deadRounds := by simpa [hm] using h
    dsimp only
    rw [if_neg (by omega), if_pos (by omega)]
  | _ =>
    have hmany : 2 ≤ (s.link k).deadRounds := by simpa [hm] using h
    exact if_pos (by omega)

theorem State.deadHunt_flips (hm : (s.link k).polarityMode = .auto) (hn : (s.link k).deadRounds = 2) : s.deadHunt k =
    (s.putLink k { (s.link k).flip with deadRounds := 3 }).notify none (.linkPolarity k (s.link k).polarity.flip) := by
  simp only [State.deadHunt, hm, hn]
  rfl

theorem State.deadHunt_counts (h : (s.link k).deadRounds < 2
    ∨ ((s.link k).polarityMode = .auto ∧ 2 < (s.link k).deadRounds ∧ (s.link k).deadRounds < 5)) :
    s.deadHunt k = s.putLink k { s.link k with deadRounds := (s.link k).deadRounds + 1 } := by
  unfold State.deadHunt
  cases hm : (s.link k).polarityMode with
  | auto =>
    have hfew := h.imp_right And.right
    dsimp only
    rw [if_neg (by omega), if_neg (by omega)]
    rfl
  | _ =>
    have hfew : (s.link k).deadRounds < 2 := by simpa [hm] using h
    have hnot : ¬3 ≤ (s.link k).deadRounds + 1 := by omega
    exact if_neg hnot

theorem State.deadFault_counts (hm : (s.link k).polarityMode = .auto) (hn : (s.link k).deadRounds < 2) :
    s.deadFault k = s.putLink k { s.link k with deadRounds := (s.link k).deadRounds + 1 } := by
  have hnot : ¬3 ≤ (s.link k).deadRounds + 1 := by omega
  unfold State.deadFault
  split
  case h_1 => exact if_neg hnot
  all_goals
    rename_i hfixed
    rw [hm] at hfixed
    cases hfixed

theorem State.deadFault_flips (hm : (s.link k).polarityMode = .auto) (hn : 2 ≤ (s.link k).deadRounds) :
    s.deadFault k = s.putLink k { (s.link k).flip with deadRounds := 0 } := by
  have hmany : 3 ≤ (s.link k).deadRounds + 1 := by omega
  unfold State.deadFault
  split
  case h_1 => exact if_pos hmany
  all_goals
    rename_i hfixed
    rw [hm] at hfixed
    cases hfixed

theorem State.deadFault_fixed (hm : (s.link k).polarityMode ≠ .auto) : s.deadFault k = s := by
  cases h : (s.link k).polarityMode with
  | auto => exact absurd h hm
  | _ => simp only [State.deadFault, h]

/-- Every polarity mode and count of dead rounds of a hunt stands in one of the three cases. -/
theorem State.deadHunt_cases (L : Link) : ((L.polarityMode ≠ .auto ∧ 2 ≤ L.deadRounds) ∨ (L.polarityMode = .auto ∧ 5 ≤ L.deadRounds))
    ∨ (L.polarityMode = .auto ∧ L.deadRounds = 2)
    ∨ (L.deadRounds < 2 ∨ (L.polarityMode = .auto ∧ 2 < L.deadRounds ∧ L.deadRounds < 5)) := by
  by_cases hm : L.polarityMode = .auto
  · simp only [hm, ne_eq, not_true_eq_false, false_and, true_and, false_or]
    omega
  · simp only [hm, ne_eq, not_false_eq_true, false_and, true_and, or_false, false_or]
    omega

/-! ## The completion of a round (R147, R153) -/

/-- The link with its round over. -/
def Link.roundEnded (L : Link) (r : Round) (now : Tick) : Link :=
  { L with round := none, nextRound := some (laterOfNow (r.start + ticks L.pace) now) }

theorem State.completeRound_live {r : Round} (h : r.validSeen = true) :
    s.completeRound k r = s.putLink k ((s.link k).roundEnded r s.runClock) := by
  rw [State.completeRound, if_pos h]
  rfl

theorem State.completeRound_dead {r : Round} (h : r.validSeen = false) :
    s.completeRound k r = (s.deadRound k).updLink k (·.roundEnded r s.runClock) := by
  rw [State.completeRound, if_neg (by rw [h]; nofun)]
  rfl

/-- The completion of a round, in every case. -/
theorem State.completeRound_roundOver (s : State) (k : Fin 4) (r : Round) : s.roundOver (s.completeRound k r) k r := by
  rintro L put other rfl hput rfl
  have hputs : put = s.putLink k := funext hput
  subst hputs
  refine ⟨State.completeRound_live, fun hdead => ?_⟩
  rw [State.completeRound_dead hdead]
  refine ⟨fun hfaults => ?_, fun hstate hm hn => ?_, fun hstate hfew => ?_, fun w hstate => ⟨fun hm hn => ?_, fun hm hn => ?_, fun hm => ?_⟩,
    fun hstate => ?_⟩
  · have hfault : s.deadRound k = s.faultLink k .noReplies := by
      rcases hfaults with hstate | ⟨hstate, hfixed⟩ | ⟨hstate, hauto⟩
      · exact State.deadRound_active hstate
      · exact (State.deadRound_hunt hstate).trans (State.deadHunt_faults (.inl hfixed))
      · exact (State.deadRound_hunt hstate).trans (State.deadHunt_faults (.inr hauto))
    rw [hfault, State.faultLink_eq, State.putLink_toldLatched]
    rfl
  · rw [State.deadRound_hunt hstate, State.deadHunt_flips hm hn, State.putLink_told]
    rfl
  · rw [State.deadRound_hunt hstate, State.deadHunt_counts hfew, State.updLink_eq, State.putLink_link, State.putLink_putLink]
    rfl
  · rw [State.deadRound_fault hstate, State.deadFault_counts hm hn, State.updLink_eq, State.putLink_link, State.putLink_putLink]
    rfl
  · rw [State.deadRound_fault hstate, State.deadFault_flips hm hn, State.updLink_eq, State.putLink_link, State.putLink_putLink]
    rfl
  · rw [State.deadRound_fault hstate, State.deadFault_fixed hm]
    rfl
  · rw [State.deadRound_idle hstate]
    rfl

/-! ## What a completed round leaves -/

/-- The settings, the counts but the flips, and the round stay. -/
structure Link.SameButState (L M : Link) : Prop where
  round     : M.round = L.round
  nextRound : M.nextRound = L.nextRound
  pace      : M.pace = L.pace
  busyRun   : M.busyRun = L.busyRun
  mode      : M.polarityMode = L.polarityMode
  stats     : M.stats = { L.stats with flips := M.stats.flips }

theorem Link.SameButState.refl (L : Link) : L.SameButState L := ⟨rfl, rfl, rfl, rfl, rfl, rfl⟩

theorem State.faultLink_onlyLink (s : State) (k : Fin 4) (why : LinkFault) : s.OnlyLink (s.faultLink k why) k :=
  (((State.OnlyLink.refl s k).putLink _).notify _ _).latch _

/-- A dead round: one link, the Journal and the flags, and of the link its state, its dead rounds, its polarity and its flips. -/
theorem State.deadRound_leaves (s : State) (k : Fin 4) :
    s.OnlyLink (s.deadRound k) k ∧ (s.link k).SameButState ((s.deadRound k).link k) := by
  have hput : ∀ L, (s.link k).SameButState L → s.OnlyLink (s.putLink k L) k ∧ (s.link k).SameButState ((s.putLink k L).link k) :=
    fun L h => ⟨(State.OnlyLink.refl s k).putLink L, by rwa [State.putLink_link]⟩
  have hfault : s.OnlyLink (s.faultLink k .noReplies) k ∧ (s.link k).SameButState ((s.faultLink k .noReplies).link k) := by
    refine ⟨State.faultLink_onlyLink s k _, ?_⟩
    rw [State.faultLink_eq, State.latch_link, State.notify_link, State.putLink_link]
    exact ⟨rfl, rfl, rfl, rfl, rfl, rfl⟩
  have hnone : s.OnlyLink s k ∧ (s.link k).SameButState (s.link k) := ⟨.refl s k, .refl _⟩
  cases hstate : (s.link k).state with
  | active =>
    rw [State.deadRound_active hstate]
    exact hfault
  | idle =>
    rw [State.deadRound_idle hstate]
    exact hnone
  | hunt =>
    rw [State.deadRound_hunt hstate]
    rcases State.deadHunt_cases (s.link k) with h | ⟨hm, hn⟩ | h
    · rw [State.deadHunt_faults h]
      exact hfault
    · rw [State.deadHunt_flips hm hn, State.notify_link, State.putLink_link]
      exact ⟨((State.OnlyLink.refl s k).putLink _).notify _ _, rfl, rfl, rfl, rfl, rfl, rfl⟩
    · rw [State.deadHunt_counts h]
      exact hput _ ⟨rfl, rfl, rfl, rfl, rfl, rfl⟩
  | fault w =>
    rw [State.deadRound_fault hstate]
    by_cases hm : (s.link k).polarityMode = .auto
    · by_cases hn : (s.link k).deadRounds < 2
      · rw [State.deadFault_counts hm hn]
        exact hput _ ⟨rfl, rfl, rfl, rfl, rfl, rfl⟩
      · rw [State.deadFault_flips hm (Nat.le_of_not_lt hn)]
        exact hput _ ⟨rfl, rfl, rfl, rfl, rfl, rfl⟩
    · rw [State.deadFault_fixed hm]
      exact hnone

/-- The link after a completed round: its round over, and of the rest what a dead round may change. -/
theorem State.completeRound_leaves (s : State) (k : Fin 4) (r : Round) : s.OnlyLink (s.completeRound k r) k
    ∧ ∃ M, (s.link k).SameButState M ∧ (s.completeRound k r).link k = M.roundEnded r s.runClock := by
  cases hvalid : r.validSeen with
  | true =>
    rw [State.completeRound_live hvalid]
    exact ⟨(State.OnlyLink.refl s k).putLink _, _, .refl _, State.putLink_link ..⟩
  | false =>
    obtain ⟨honly, hsame⟩ := s.deadRound_leaves k
    rw [State.completeRound_dead hvalid]
    exact ⟨honly.putLink _, _, hsame, State.putLink_link ..⟩

/-! ## The end of a slot (R147, R148) -/

/-- The link with the next slot of its round begun. -/
def Link.slotBegun (L : Link) (r : Round) : Link := { L with round := some { r with next := r.next + 1, phase := .idleCheck } }

theorem State.nextSlot_begins {r : Round} (h : (s.link k).round = some r) (hnext : r.next + 1 < r.slots.length) :
    s.nextSlot k = s.putLink k ((s.link k).slotBegun r) := by
  simp only [State.nextSlot, h, if_pos hnext]
  rfl

theorem State.nextSlot_completes {r : Round} (h : (s.link k).round = some r) (hnext : r.slots.length ≤ r.next + 1) :
    s.nextSlot k = s.completeRound k r := by
  simp only [State.nextSlot, h, if_neg (Nat.not_lt.mpr hnext)]

theorem State.nextSlot_slotOver {r : Round} (h : (s.link k).round = some r) : s.slotOver (s.nextSlot k) k r := by
  refine ⟨State.nextSlot_begins h, fun hnext => ?_⟩
  rw [State.nextSlot_completes h hnext]
  exact s.completeRound_roundOver k r

theorem State.nextSlot_onlyLink {r : Round} (h : (s.link k).round = some r) : s.OnlyLink (s.nextSlot k) k := by
  by_cases hnext : r.next + 1 < r.slots.length
  · rw [State.nextSlot_begins h hnext]
    exact (State.OnlyLink.refl s k).putLink _
  · rw [State.nextSlot_completes h (Nat.le_of_not_lt hnext)]
    exact (s.completeRound_leaves k r).1

end

end Sys2Proof.Machine
end

section
/-! The poll of a slot, event by event (R147–R149, R154, R155, R194), and its obligation. -/

namespace Sys2Proof.Machine

section
variable {s : State} {k : Fin 4} {r : Round}

/-! ## ROUND_START -/

theorem State.takeRoundStart_reached {at_ : Tick} (hround : (s.link k).round = none) (hnext : (s.link k).nextRound = some at_)
    (hstate : (s.link k).state ≠ .idle) (hreached : reached at_ s.runClock = true) : s.takeRoundStart k =
      s.putLink k { s.link k with nextRound := none, round := some (Round.starting (slotList s.stations k) s.runClock) } := by
  simp only [State.takeRoundStart, hround, hnext, if_pos (And.intro hstate hreached)]
  rfl

/-- A round starts when none is in progress, one is due and its instant reached, and the link polls; not otherwise. -/
theorem State.takeRoundStart_not (h : (s.link k).round.isSome ∨ (s.link k).nextRound = none ∨ (s.link k).state = .idle
    ∨ (∃ at_, (s.link k).nextRound = some at_ ∧ reached at_ s.runClock = false)) : s.takeRoundStart k = s := by
  unfold State.takeRoundStart
  split
  · next at_ hround hnext =>
    refine if_neg fun ⟨hstate, hreached⟩ => ?_
    rcases h with h | h | h | ⟨at', hat, hearly⟩
    · rw [hround] at h
      cases h
    · rw [hnext] at h
      cases h
    · exact hstate h
    · rw [hnext] at hat
      cases hat
      rw [hreached] at hearly
      cases hearly
  all_goals rfl

/-! ## The phases of a slot -/

theorem State.setPhase_eq (h : (s.link k).round = some r) (p : SlotPhase) :
    s.setPhase k p = s.putLink k { s.link k with round := some { r with phase := p } } := by
  rw [State.setPhase, State.updLink_eq, h]
  rfl

theorem pollTelegram_eq (address : Nat) : pollTelegram address = [0x3C#8, BitVec.ofNat 8 address, 0x0F#8]
    ++ enc2 (crc16 [0x3C#8, BitVec.ofNat 8 address, 0x0F#8]).toNat := rfl

theorem State.takeIdleCheck_inSlot {st : Station} (h : s.inSlot k r .idleCheck st) : s.takeIdleCheck k = s.putLink k { s.link k with
    busyRun := 0, round := some { r with phase := .sendingPoll ((pollTelegram st.address).map (s.link k).polarity.drive) } } := by
  obtain ⟨hround, hphase, hst⟩ := h
  simp only [State.takeIdleCheck, hround, hphase, hst, State.setPhase_eq hround]
  rw [State.updLink_eq, State.putLink_link, State.putLink_putLink]

theorem State.takeIdleCheck_otherPhase (h : (s.link k).round = some r) (hphase : r.phase ≠ .idleCheck) : s.takeIdleCheck k = s := by
  simp only [State.takeIdleCheck, h]
  split
  · next hp _ => exact absurd hp hphase
  all_goals rfl

theorem State.takeBusy_otherPhase (h : (s.link k).round = some r) (hphase : r.phase ≠ .idleCheck) (level : Pair Bool) :
    s.takeBusy k level = s := by
  simp only [State.takeBusy, h]
  split
  · next hp => exact absurd hp hphase
  all_goals rfl

theorem State.takePollSent_sending {driven : List (Pair Byte)} (h : (s.link k).round = some r) (hphase : r.phase = .sendingPoll driven) :
    s.takePollSent k = s.putLink k { s.link k with round := some { r with phase := .replyWait } } := by
  simp only [State.takePollSent, h, hphase, State.setPhase_eq h]

theorem State.takePollSent_otherPhase (h : (s.link k).round = some r) (hphase : ∀ driven, r.phase ≠ .sendingPoll driven) :
    s.takePollSent k = s := by
  simp only [State.takePollSent, h]
  split
  · next driven hp => exact absurd hp (hphase driven)
  all_goals rfl

theorem Link.driverEnabled_sending {L : Link} {driven : List (Pair Byte)} (h : L.round = some r) (hphase : r.phase = .sendingPoll driven) :
    L.driverEnabled = true := by
  simp only [Link.driverEnabled, h, hphase]

theorem Link.driverEnabled_otherPhase {L : Link} (h : L.round = some r) (hphase : ∀ driven, r.phase ≠ .sendingPoll driven) :
    L.driverEnabled = false := by
  simp only [Link.driverEnabled, h]
  split
  · next driven hp => exact absurd hp (hphase driven)
  all_goals rfl

theorem Link.driverEnabled_noRound {L : Link} (h : L.round = none) : L.driverEnabled = false := by simp only [Link.driverEnabled, h]

/-! ## The characters of a reply -/

/-- The wire that carries the bits in the polarity in force. -/
theorem Polarity.read_eq {α : Type} (p : Polarity) (w : Pair α) : p.read w = match p with
    | .normal => w.fnA
    | .swapped => w.fnB := by
  cases p <;> rfl

section
variable (hround : (s.link k).round = some r)
include hround

theorem State.takeReplyChar_begins (hphase : r.phase = .replyWait) (level : Pair Bool) : s.takeReplyChar k (.begins level) =
    if (s.link k).polarity.seesStart level then s.putLink k { s.link k with round := some { r with phase := .receiving [] true } } else s := by
  simp only [State.takeReplyChar, hround, hphase, State.setPhase_eq hround]

theorem State.takeReplyChar_next {cs : List Byte} (hphase : r.phase = .receiving cs false) (level : Pair Bool) :
    s.takeReplyChar k (.begins level) = if cs.length < 13 ∧ (s.link k).polarity.seesStart level = true then
      s.putLink k { s.link k with round := some { r with phase := .receiving cs true } } else s := by
  simp only [State.takeReplyChar, hround, hphase, State.setPhase_eq hround]

theorem State.takeReplyChar_ends {cs : List Byte} (hphase : r.phase = .receiving cs true) (w : Pair Byte) : s.takeReplyChar k (.ends w) =
    s.putLink k { s.link k with round := some { r with phase := .receiving (cs ++ [(s.link k).polarity.read w]) false } } := by
  simp only [State.takeReplyChar, hround, hphase, State.setPhase_eq hround]

/-- Without a start bit no character begins. -/
theorem State.takeReplyChar_noStart {level : Pair Bool} (h : (s.link k).polarity.seesStart level = false) :
    s.takeReplyChar k (.begins level) = s := by
  cases hphase : r.phase with
  | replyWait => exact (State.takeReplyChar_begins hround hphase level).trans (if_neg fun hstart => Bool.false_ne_true (h.symm.trans hstart))
  | receiving cs within =>
    cases within with
    | false =>
      exact (State.takeReplyChar_next hround hphase level).trans (if_neg fun ⟨_, hstart⟩ => Bool.false_ne_true (h.symm.trans hstart))
    | true => simp only [State.takeReplyChar, hround, hphase]
  | idleCheck => simp only [State.takeReplyChar, hround, hphase]
  | sendingPoll driven => simp only [State.takeReplyChar, hround, hphase]

theorem State.takeReplyChar_beforeReply (hphase : r.phase = .idleCheck ∨ ∃ driven, r.phase = .sendingPoll driven) (edge : CharEdge) :
    s.takeReplyChar k edge = s := by
  rcases hphase with hphase | ⟨driven, hphase⟩
  · cases edge with
    | _ => simp only [State.takeReplyChar, hround, hphase]
  · cases edge with
    | _ => simp only [State.takeReplyChar, hround, hphase]

theorem State.takeReplyChar_endsNone {cs : List Byte} (hphase : r.phase = .replyWait ∨ r.phase = .receiving cs false) (w : Pair Byte) :
    s.takeReplyChar k (.ends w) = s := by
  rcases hphase with hphase | hphase
  · simp only [State.takeReplyChar, hround, hphase]
  · simp only [State.takeReplyChar, hround, hphase]

theorem State.takeReplyChar_beginsNone {cs : List Byte} (hphase : r.phase = .receiving cs true ∨ (r.phase = .receiving cs false ∧ 13 ≤ cs.length))
    (level : Pair Bool) : s.takeReplyChar k (.begins level) = s := by
  rcases hphase with hphase | ⟨hphase, hmany⟩
  · simp only [State.takeReplyChar, hround, hphase]
  · rw [State.takeReplyChar_next hround hphase]
    exact if_neg fun ⟨hfew, _⟩ => absurd hmany (Nat.not_le.mpr hfew)

end

/-! ## A slot skipped busy (R148, R155) -/

theorem State.busStuck_polls (h : (s.link k).state = .hunt ∨ (s.link k).state = .active) : s.busStuck k =
    ((s.putLink k { s.link k with state := .fault .busStuck, deadRounds := 0 }).notify none (.linkFault k .busStuck)).latch .link := by
  rcases h with h | h
  · simp only [State.busStuck, h]
    rfl
  · simp only [State.busStuck, h]
    rfl

theorem State.busStuck_noReplies (h : (s.link k).state = .fault .noReplies) : s.busStuck k =
    ((s.putLink k { s.link k with state := .fault .busStuck }).notify none (.linkFault k .busStuck)).latch .link := by
  simp only [State.busStuck, h]
  rfl

theorem State.busStuck_not (h : (s.link k).state = .fault .busStuck ∨ (s.link k).state = .idle) : s.busStuck k = s := by
  rcases h with h | h
  · simp only [State.busStuck, h]
  · simp only [State.busStuck, h]

theorem State.busStuck_leaves (s : State) (k : Fin 4) : s.OnlyLink (s.busStuck k) k ∧ (s.link k).SameButState ((s.busStuck k).link k) := by
  cases h : (s.link k).state with
  | idle =>
    rw [State.busStuck_not (.inr h)]
    exact ⟨.refl s k, .refl _⟩
  | hunt =>
    rw [State.busStuck_polls (.inl h), State.latch_link, State.notify_link, State.putLink_link]
    exact ⟨(((State.OnlyLink.refl s k).putLink _).notify _ _).latch _, rfl, rfl, rfl, rfl, rfl, rfl⟩
  | active =>
    rw [State.busStuck_polls (.inr h), State.latch_link, State.notify_link, State.putLink_link]
    exact ⟨(((State.OnlyLink.refl s k).putLink _).notify _ _).latch _, rfl, rfl, rfl, rfl, rfl, rfl⟩
  | fault w =>
    cases w with
    | noReplies =>
      rw [State.busStuck_noReplies h, State.latch_link, State.notify_link, State.putLink_link]
      exact ⟨(((State.OnlyLink.refl s k).putLink _).notify _ _).latch _, rfl, rfl, rfl, rfl, rfl, rfl⟩
    | busStuck =>
      rw [State.busStuck_not (.inl h)]
      exact ⟨.refl s k, .refl _⟩

/-- The link's counts of a busy skip, and BUS_STUCK at the tenth in a row. -/
def State.skippedBusy (s : State) (k : Fin 4) : State :=
  if (s.link k).busyRun = 9 then (s.putLink k (s.link k).skipBusy).busStuck k else s.putLink k (s.link k).skipBusy

theorem State.takeBusy_start {level : Pair Bool} (hround : (s.link k).round = some r) (hphase : r.phase = .idleCheck)
    (hstart : (s.link k).polarity.seesStart level = true) : s.takeBusy k level = (s.skippedBusy k).nextSlot k := by
  have hten : ((s.putLink k (s.link k).skipBusy).link k).busyRun = 10 ↔ (s.link k).busyRun = 9 := by
    rw [State.putLink_link]
    show min ((s.link k).busyRun + 1) 255 = 10 ↔ _
    omega
  simp only [State.takeBusy, hround, hphase, if_pos hstart, State.updLink_eq, hten, State.skippedBusy]

theorem State.takeBusy_noStart {level : Pair Bool} (hround : (s.link k).round = some r) (hphase : r.phase = .idleCheck)
    (hstart : (s.link k).polarity.seesStart level = false) : s.takeBusy k level = s := by
  simp only [State.takeBusy, hround, hphase, hstart]
  rfl

theorem State.skippedBusy_leaves (s : State) (k : Fin 4) :
    s.OnlyLink (s.skippedBusy k) k ∧ (s.link k).skipBusy.SameButState ((s.skippedBusy k).link k) := by
  have hput : s.OnlyLink (s.putLink k (s.link k).skipBusy) k := (State.OnlyLink.refl s k).putLink _
  unfold State.skippedBusy
  split
  · obtain ⟨honly, hsame⟩ := (s.putLink k (s.link k).skipBusy).busStuck_leaves k
    rw [State.putLink_link] at hsame
    exact ⟨hput.trans honly, hsame⟩
  · rw [State.putLink_link]
    exact ⟨hput, .refl _⟩

/-- A busy skip flips no polarity. -/
theorem State.skippedBusy_flips (s : State) (k : Fin 4) : ((s.skippedBusy k).link k).stats = (s.link k).skipBusy.stats := by
  unfold State.skippedBusy
  split
  · have hlink := State.putLink_link s k (s.link k).skipBusy
    generalize s.putLink k (s.link k).skipBusy = u at hlink ⊢
    cases h : (u.link k).state with
    | idle => rw [State.busStuck_not (.inr h), hlink]
    | hunt => rw [State.busStuck_polls (.inl h), State.latch_link, State.notify_link, State.putLink_link, hlink]
    | active => rw [State.busStuck_polls (.inr h), State.latch_link, State.notify_link, State.putLink_link, hlink]
    | fault w =>
      cases w with
      | noReplies => rw [State.busStuck_noReplies h, State.latch_link, State.notify_link, State.putLink_link, hlink]
      | busStuck => rw [State.busStuck_not (.inl h), hlink]
  · rw [State.putLink_link]

/-! ## What the end of a slot leaves of the link -/

/-- The end of a slot leaves the link's busy run and its counts but the flips. -/
theorem State.nextSlot_counts (h : (s.link k).round = some r) : ((s.nextSlot k).link k).busyRun = (s.link k).busyRun
    ∧ ((s.nextSlot k).link k).stats = { (s.link k).stats with flips := ((s.nextSlot k).link k).stats.flips }
    ∧ ((s.nextSlot k).link k).polarityMode = (s.link k).polarityMode := by
  by_cases hnext : r.next + 1 < r.slots.length
  · rw [State.nextSlot_begins h hnext, State.putLink_link]
    exact ⟨rfl, rfl, rfl⟩
  · obtain ⟨_, M, hsame, hlink⟩ := s.completeRound_leaves k r
    rw [State.nextSlot_completes h (Nat.le_of_not_lt hnext), hlink]
    exact ⟨hsame.busyRun, hsame.stats, hsame.mode⟩

theorem State.nextSlot_round_begins (h : (s.link k).round = some r) (hnext : r.next + 1 < r.slots.length) :
    (s.nextSlot k).link k = (s.link k).slotBegun r := by
  rw [State.nextSlot_begins h hnext, State.putLink_link]

theorem State.nextSlot_round_ends (h : (s.link k).round = some r) (hnext : r.slots.length ≤ r.next + 1) :
    ((s.nextSlot k).link k).round = none
    ∧ ((s.nextSlot k).link k).nextRound = some (laterOfNow (r.start + ticks (s.link k).pace) s.runClock) := by
  obtain ⟨_, M, hsame, hlink⟩ := s.completeRound_leaves k r
  rw [State.nextSlot_completes h hnext, hlink, ← hsame.pace]
  exact ⟨rfl, rfl⟩

end

/-- Settles O54: each event by the phase in which it comes. -/
theorem pollSlotGoesThroughItsPhases : Obligations.PollSlotGoesThroughItsPhases := by
  intro s k put hput
  have hputs : put = s.putLink k := funext hput
  subst hputs
  have hnext : ∀ {t u : State}, t = u → Host.Outcome.next (φ := Fault) (ρ := Refusal) t = .next u := fun h => congrArg _ h
  have hsees : ∀ (level : Pair Bool) (wire : Bool), wire = (match (s.link k).polarity with
      | .normal => level.fnA
      | .swapped => level.fnB) → (s.link k).polarity.seesStart level = !wire := fun level wire hwire => by
    rw [hwire.trans (Polarity.read_eq _ _).symm]
    rfl
  refine ⟨fun at_ hround hnextRound hstate hreached => hnext (State.takeRoundStart_reached hround hnextRound hstate hreached),
    fun h => hnext (State.takeRoundStart_not h), fun r st h => ⟨pollTelegram st.address, ?_, pollTelegram_eq _⟩,
    fun r level wire hround hphase hwire => ⟨fun hidle => ?_, fun hbusy => ?_⟩,
    fun r driven hround hphase => ⟨Link.driverEnabled_sending hround hphase, hnext (State.takePollSent_sending hround hphase)⟩,
    fun r hround => ⟨fun hphase => ⟨Link.driverEnabled_otherPhase hround hphase, hnext (State.takePollSent_otherPhase hround hphase)⟩,
      fun hphase => ⟨hnext (State.takeIdleCheck_otherPhase hround hphase), fun level => hnext (State.takeBusy_otherPhase hround hphase level)⟩,
      fun level wire hwire => ⟨fun hidle => ?_, fun hbusy hphase => ?_, fun cs hbusy hphase hfew => ?_⟩,
      fun cs w character hcharacter hphase => ?_, fun hphase edge => hnext (State.takeReplyChar_beforeReply hround hphase edge),
      fun cs w hphase => hnext (State.takeReplyChar_endsNone hround hphase w),
      fun cs level hphase => hnext (State.takeReplyChar_beginsNone hround hphase level)⟩,
    fun hround => ⟨Link.driverEnabled_noRound hround, hnext (State.takeIdleCheck_no_round hround),
      fun level => hnext (State.takeBusy_no_round hround level), hnext (State.takePollSent_no_round hround),
      fun edge => hnext (State.takeReplyChar_no_round hround edge)⟩⟩
  · refine hnext ((State.takeIdleCheck_inSlot h).trans ?_)
    cases (s.link k).polarity with
    | _ => rfl
  · have hstart := hsees level wire hwire
    rw [hidle] at hstart
    exact hnext (State.takeBusy_noStart hround hphase hstart)
  · have hstart := hsees level wire hwire
    rw [hbusy] at hstart
    obtain ⟨honly, hsame⟩ := s.skippedBusy_leaves k
    have hround' : ((s.skippedBusy k).link k).round = some r := hsame.round.trans hround
    obtain ⟨hrun, hstats, _⟩ := State.nextSlot_counts hround'
    have hall := honly.trans (State.nextSlot_onlyLink hround')
    refine ⟨_, s.skippedBusy k, _, hnext (State.takeBusy_start hround hphase hstart), rfl, fun hfew => if_neg hfew, fun hten => ⟨fun hstate => ?_,
      fun hstate => ?_, fun hstate => ?_⟩, State.nextSlot_slotOver hround', hrun.trans hsame.busyRun, ?_, fun hmore => ⟨?_, ?_⟩, fun hlast => ?_,
      hall.frame, fun k' hk => hall.other hk⟩
    · rw [State.skippedBusy, if_pos hten, State.busStuck_polls (by rwa [State.putLink_link]), State.putLink_link, State.putLink_putLink]
      rfl
    · rw [State.skippedBusy, if_pos hten, State.busStuck_noReplies (by rwa [State.putLink_link]), State.putLink_link, State.putLink_putLink]
      rfl
    · rw [State.skippedBusy, if_pos hten, State.busStuck_not (by rwa [State.putLink_link])]
      rfl
    · rw [hstats, State.skippedBusy_flips]
      rfl
    · rw [State.nextSlot_round_begins hround' hmore]
      show some ({ r with next := r.next + 1, phase := .idleCheck } : Round) = _
      rw [← hphase]
    · rw [State.nextSlot_round_begins hround' hmore]
      exact State.skippedBusy_flips s k
    · exact (State.nextSlot_round_ends hround' hlast).1
  · have hstart := hsees level wire hwire
    rw [hidle] at hstart
    exact hnext (State.takeReplyChar_noStart hround hstart)
  · have hstart := hsees level wire hwire
    rw [hbusy] at hstart
    exact hnext ((State.takeReplyChar_begins hround hphase level).trans (if_pos hstart))
  · have hstart := hsees level wire hwire
    rw [hbusy] at hstart
    exact hnext ((State.takeReplyChar_next hround hphase level).trans (if_pos ⟨hfew, hstart⟩))
  · rw [hcharacter.trans (Polarity.read_eq _ _).symm]
    exact hnext (State.takeReplyChar_ends hround hphase w)

end Sys2Proof.Machine
end

section
/-! A slot's outcome: what it does to the link (R150, R152), to the station and to the slot (R151, R147), and how a reply is judged (R150). -/

namespace Sys2Proof.Machine

section
variable {s : State} {k : Fin 4} {r : Round} {o : SlotOutcome}

/-! ## The link's counts and state (R150, R152, R156) -/

/-- The statistics at an outcome, field by field. -/
theorem LinkStats.count_eq (x : LinkStats) (o : SlotOutcome) : x.count o = { x with
    pollsSent := satAdd x.pollsSent 1
    goodReplies := match o with
      | .good _ => satAdd x.goodReplies 1
      | .timeout | .checkError | .contentError => x.goodReplies
    timeouts := if o = .timeout then satAdd x.timeouts 1 else x.timeouts
    checkErrors := if o = .checkError then satAdd x.checkErrors 1 else x.checkErrors
    contentErrors := if o = .contentError then satAdd x.contentErrors 1 else x.contentErrors } := by
  cases o with
  | _ => simp [LinkStats.count]

/-- The link with an outcome counted, and the round's valid-seen flag set by a valid one. -/
def Link.withOutcome (L : Link) (r : Round) (o : SlotOutcome) : Link :=
  { L with
    round := some { r with validSeen := r.validSeen || o.isValid }
    stats := L.stats.count o }

/-- The first half of taking an outcome: the link's. -/
def State.linkOutcome (s : State) (k : Fin 4) (o : SlotOutcome) : State :=
  if o.isValid then ((s.updLink k fun L => { L with stats := L.stats.count o }).markValid k).validReply k
  else s.updLink k fun L => { L with stats := L.stats.count o }

theorem State.takeOutcome_eq (s : State) (k : Fin 4) (n : Nat) (o : SlotOutcome) :
    s.takeOutcome k n o = ((s.linkOutcome k o).handOver n o).nextSlot k := rfl

theorem State.linkOutcome_invalid (h : (s.link k).round = some r) (ho : o.isValid = false) :
    s.linkOutcome k o = s.putLink k ((s.link k).withOutcome r o) := by
  rw [State.linkOutcome, if_neg (by rw [ho]; nofun), State.updLink_eq, Link.withOutcome, ho, Bool.or_false, ← h]

theorem State.linkOutcome_valid (h : (s.link k).round = some r) (ho : o.isValid = true) :
    s.linkOutcome k o = (s.putLink k ((s.link k).withOutcome r o)).validReply k := by
  rw [State.linkOutcome, if_pos ho, State.markValid, State.updLink_eq, State.updLink_eq, State.putLink_link, State.putLink_putLink, h,
    Link.withOutcome, ho, Bool.or_true]
  rfl

theorem State.validReply_hunt (h : (s.link k).state = .hunt) :
    s.validReply k = s.putLink k { s.link k with state := .active, deadRounds := 0 } := by
  simp only [State.validReply, h, State.updLink_eq]

theorem State.validReply_fault {w : LinkFault} (h : (s.link k).state = .fault w) : s.validReply k =
    (s.putLink k { s.link k with state := .active, deadRounds := 0 }).notify none (.linkCleared k (s.link k).polarity) := by
  simp only [State.validReply, h, State.updLink_eq]

theorem State.validReply_other (h : (s.link k).state = .active ∨ (s.link k).state = .idle) : s.validReply k = s := by
  rcases h with h | h
  · simp only [State.validReply, h]
  · simp only [State.validReply, h]

theorem State.linkOutcome_tookLinkOutcome (h : (s.link k).round = some r) : s.tookLinkOutcome (s.linkOutcome k o) k r o := by
  intro L put hL hput
  have hputs : put = s.putLink k := funext hput
  have hwith : L = (s.link k).withOutcome r o := hL.trans (congrArg (fun stats => ({ s.link k with
    round := some { r with validSeen := r.validSeen || o.isValid }
    stats := stats } : Link)) (LinkStats.count_eq _ o).symm)
  clear hL
  subst hputs hwith
  refine ⟨State.linkOutcome_invalid h, fun ho => ?_⟩
  rw [State.linkOutcome_valid h ho]
  refine ⟨fun hstate => ?_, fun w hstate => ?_, fun hstate => ?_⟩
  · rw [State.validReply_hunt (by rwa [State.putLink_link]), State.putLink_link, State.putLink_putLink]
  · rw [State.validReply_fault (by rwa [State.putLink_link]), State.putLink_link, State.putLink_putLink]
  · exact State.validReply_other (by rwa [State.putLink_link])

/-- The link's half changes the link, and the Journal by LINK_CLEARED. -/
theorem State.linkOutcome_onlyLink (h : (s.link k).round = some r) : s.OnlyLink (s.linkOutcome k o) k := by
  have hput : ∀ L, s.OnlyLink (s.putLink k L) k := (State.OnlyLink.refl s k).putLink
  cases ho : o.isValid with
  | false =>
    rw [State.linkOutcome_invalid h ho]
    exact hput _
  | true =>
    rw [State.linkOutcome_valid h ho]
    refine (hput ((s.link k).withOutcome r o)).trans ?_
    generalize s.putLink k ((s.link k).withOutcome r o) = u
    have hu : ∀ L, u.OnlyLink (u.putLink k L) k := (State.OnlyLink.refl u k).putLink
    cases hstate : (u.link k).state with
    | hunt =>
      rw [State.validReply_hunt hstate]
      exact hu _
    | fault w =>
      rw [State.validReply_fault hstate]
      exact (hu _).notify _ _
    | active =>
      rw [State.validReply_other (.inl hstate)]
      exact .refl u k
    | idle =>
      rw [State.validReply_other (.inr hstate)]
      exact .refl u k

/-- What an outcome leaves of a link's state and dead rounds. -/
structure Link.OutcomeState (L M : Link) (o : SlotOutcome) : Prop where
  invalid : o.isValid = false → M.state = L.state
  active  : o.isValid = true → L.state ≠ .idle → M.state = .active
  zero    : o.isValid = true → (L.state = .hunt ∨ ∃ w, L.state = .fault w) → M.deadRounds = 0

/-- The link after an outcome: counted, and in state and dead rounds as a valid reply puts them. -/
theorem State.linkOutcome_link (h : (s.link k).round = some r) : (s.link k).OutcomeState ((s.linkOutcome k o).link k) o
    ∧ (s.linkOutcome k o).link k = { (s.link k).withOutcome r o with
        state := ((s.linkOutcome k o).link k).state, deadRounds := ((s.linkOutcome k o).link k).deadRounds } := by
  cases ho : o.isValid with
  | false =>
    rw [State.linkOutcome_invalid h ho, State.putLink_link]
    exact ⟨⟨fun _ => rfl, fun hvalid => (nomatch ho.symm.trans hvalid), fun hvalid => (nomatch ho.symm.trans hvalid)⟩, rfl⟩
  | true =>
    have hinvalid : ∀ {q : Prop}, o.isValid = false → q := fun hvalid => nomatch ho.symm.trans hvalid
    rw [State.linkOutcome_valid h ho]
    cases hstate : (s.link k).state with
    | hunt =>
      rw [State.validReply_hunt (by rw [State.putLink_link]; exact hstate), State.putLink_link, State.putLink_link]
      exact ⟨⟨hinvalid, fun _ _ => rfl, fun _ _ => rfl⟩, rfl⟩
    | fault w =>
      rw [State.validReply_fault (by rw [State.putLink_link]; exact hstate), State.notify_link, State.putLink_link, State.putLink_link]
      exact ⟨⟨hinvalid, fun _ _ => rfl, fun _ _ => rfl⟩, rfl⟩
    | active =>
      rw [State.validReply_other (by rw [State.putLink_link]; exact .inl hstate), State.putLink_link]
      refine ⟨⟨hinvalid, fun _ _ => hstate, fun _ hbad => ?_⟩, rfl⟩
      rw [hstate] at hbad
      exact hbad.elim nofun nofun
    | idle =>
      rw [State.validReply_other (by rw [State.putLink_link]; exact .inr hstate), State.putLink_link]
      refine ⟨⟨hinvalid, fun _ hidle => absurd hstate hidle, fun _ hbad => ?_⟩, rfl⟩
      rw [hstate] at hbad
      exact hbad.elim nofun nofun

/-- No link's thresholds change. -/
theorem State.linkOutcome_thresholds (h : (s.link k).round = some r) (j : Fin 4) :
    ((s.linkOutcome k o).link j).missThreshold = (s.link j).missThreshold
    ∧ ((s.linkOutcome k o).link j).returnThreshold = (s.link j).returnThreshold := by
  by_cases hj : j = k
  · obtain ⟨_, hlink⟩ := State.linkOutcome_link (o := o) h
    rw [hj, hlink]
    exact ⟨rfl, rfl⟩
  · rw [(State.linkOutcome_onlyLink h).other hj]
    exact ⟨rfl, rfl⟩

/-! ## The station's half (R151) -/

theorem State.handOver_rehearsing {n : Nat} {st : Station} (hst : s.station? n = some st) (h : s.rehearsing st.line = true) :
    s.handOver n o = s := by
  simp only [State.handOver, hst, if_pos h]

theorem State.handOver_good {n : Nat} {st : Station} (hst : s.station? n = some st) (h : s.rehearsing st.line = false) (rep : Report) :
    s.handOver n (.good rep) = s.goodReply st rep := by
  simp only [State.handOver, hst, h]
  rfl

theorem State.handOver_miss {n : Nat} {st : Station} (hst : s.station? n = some st) (h : s.rehearsing st.line = false)
    (ho : ∀ rep, o ≠ .good rep) : s.handOver n o = s.miss st := by
  cases o with
  | good rep => exact absurd rfl (ho rep)
  | _ =>
    simp only [State.handOver, hst, h]
    rfl

/-- What the hand-over of an outcome does to the table, by its kind. -/
theorem State.handOver_took {st : Station} (hst : s.station? st.number = some st) (h : s.rehearsing st.line = false) :
    (match o with
      | .good rep => s.tookGood (s.handOver st.number o) st rep
      | .timeout | .checkError | .contentError => s.tookMiss (s.handOver st.number o) st)
    ∧ ∃ q, (s.handOver st.number o).station? st.number = some q ∧ (match o with
      | .good rep => st.tookGood q rep (s.link st.link).returnThreshold s.runClock
      | .timeout | .checkError | .contentError => st.tookMiss q (s.link st.link).missThreshold) := by
  cases o with
  | good rep =>
    rw [State.handOver_good hst h]
    exact ⟨State.goodReply_tookGood hst, State.goodReply_station? hst⟩
  | _ =>
    rw [State.handOver_miss hst h fun _ => SlotOutcome.noConfusion]
    exact ⟨State.miss_tookMiss hst, State.miss_station? hst⟩

/-! ## The end of the slot -/

/-- A live round's slot ends: the link's state and dead rounds stay. -/
theorem State.nextSlot_live (h : (s.link k).round = some r) (hvalid : r.validSeen = true) :
    ((s.nextSlot k).link k).state = (s.link k).state ∧ ((s.nextSlot k).link k).deadRounds = (s.link k).deadRounds := by
  by_cases hnext : r.next + 1 < r.slots.length
  · rw [State.nextSlot_round_begins h hnext]
    exact ⟨rfl, rfl⟩
  · rw [State.nextSlot_completes h (Nat.le_of_not_lt hnext), State.completeRound_live hvalid, State.putLink_link]
    exact ⟨rfl, rfl⟩

theorem State.slotStation_station? {st : Station} (h : s.slotStation r = some st) : s.station? st.number = some st := by
  unfold State.slotStation at h
  obtain ⟨n, _, hn⟩ := Option.bind_eq_some_iff.mp h
  exact (State.station?_number hn).symm ▸ hn

theorem State.takeOutcome_tookOutcome {phase : SlotPhase} {st : Station} (h : s.inSlot k r phase st) :
    s.tookOutcome (s.takeOutcome k st.number o) k r st o := by
  obtain ⟨hround, _, hslot⟩ := h
  have hst := State.slotStation_station? hslot
  have htouch : Touch (.ofLink k) s (s.takeOutcome k st.number o) := .takeOutcome (fun _ => trivial) rfl _ _
  have honly := State.linkOutcome_onlyLink (o := o) hround
  obtain ⟨hstate, hlink⟩ := State.linkOutcome_link (o := o) hround
  obtain ⟨hmiss, hreturn⟩ := State.linkOutcome_thresholds (o := o) hround st.link
  have htook := State.linkOutcome_tookLinkOutcome (o := o) hround
  rw [State.takeOutcome_eq] at htouch ⊢
  generalize s.linkOutcome k o = u at *
  have hstu : u.station? st.number = some st := by rw [State.station?, honly.stations]; exact hst
  have hrehearsing : u.rehearsing st.line = s.rehearsing st.line := by rw [State.rehearsing, State.line?, honly.lines]; rfl
  have hhand : Touch .allLines u (u.handOver st.number o) := .handOver (fun _ => trivial) _ _
  have hlinks : ∀ j, (u.handOver st.number o).link j = u.link j := fun j => congrArg (·[j]) (hhand.links_same fun _ => id)
  have hclock : (u.handOver st.number o).runClock = s.runClock := hhand.frame.runClock.trans honly.runClock
  have hroundv : ((u.handOver st.number o).link k).round = some { r with validSeen := r.validSeen || o.isValid } := by
    rw [hlinks, hlink]
    rfl
  have hstatsv : ((u.handOver st.number o).link k).stats = (s.link k).stats.count o := by
    rw [hlinks, hlink]
    rfl
  obtain ⟨_, hstats, _⟩ := State.nextSlot_counts hroundv
  rw [hstatsv, LinkStats.count_eq] at hstats
  have hslotOver := State.nextSlot_slotOver hroundv
  have honlyv := State.nextSlot_onlyLink hroundv
  have hlive : o.isValid = true → (((u.handOver st.number o).nextSlot k).link k).state = (u.link k).state
      ∧ (((u.handOver st.number o).nextSlot k).link k).deadRounds = (u.link k).deadRounds := fun ho => by
    rw [← hlinks]
    exact State.nextSlot_live hroundv (by rw [ho, Bool.or_true])
  refine ⟨⟨u, _, htook, fun hr => State.handOver_rehearsing hstu (hrehearsing.trans hr), fun hr =>
      (State.handOver_took hstu (hrehearsing.trans hr)).1, hslotOver⟩, congrArg LinkStats.pollsSent hstats,
    congrArg LinkStats.goodReplies hstats, congrArg LinkStats.timeouts hstats, congrArg LinkStats.checkErrors hstats,
    congrArg LinkStats.contentErrors hstats, (congrArg LinkStats.busySkips hstats :),
    fun ho hidle => (hlive ho).1.trans (hstate.active ho hidle), fun ho hbad => (hlive ho).2.trans (hstate.zero ho hbad),
    fun hmore => ⟨?_, fun ho => ?_⟩, fun hlast => ?_, fun hr => ?_, fun hr => ?_, fun j hj => htouch.otherLink j hj, htouch.frame.host,
    htouch.frame.plant, htouch.triggers_same fun _ => id⟩
  · rw [State.nextSlot_round_begins hroundv hmore]
    rfl
  · rw [State.nextSlot_round_begins hroundv hmore]
    exact (congrArg Link.state (hlinks k)).trans (hstate.invalid ho)
  · obtain ⟨hnone, hnextRound⟩ := State.nextSlot_round_ends hroundv hlast
    refine ⟨hnone, ?_⟩
    rw [hnextRound, hclock, hlinks, hlink]
    rfl
  · rw [honlyv.stations, honlyv.lines, State.handOver_rehearsing hstu (hrehearsing.trans hr)]
    exact ⟨honly.stations, honly.lines⟩
  · obtain ⟨_, q, hq, htookq⟩ := State.handOver_took (o := o) hstu (hrehearsing.trans hr)
    rw [hmiss, hreturn, honly.runClock] at htookq
    refine ⟨q, ?_, htookq⟩
    rw [State.station?, honlyv.stations]
    exact hq

end

/-! ## The judgment of a reply (R150, R194) -/

section
variable {address status code age infeed outfeed reject : Nat}

/-- The twelve bytes that the check of a report telegram covers. -/
def reportCovered (address status code age infeed outfeed reject : Nat) : List Byte :=
  [0xC3#8, BitVec.ofNat 8 address, 0xF0#8, BitVec.ofNat 8 status, BitVec.ofNat 8 code, BitVec.ofNat 8 age,
    BitVec.ofNat 8 infeed, BitVec.ofNat 8 (infeed / 256), BitVec.ofNat 8 outfeed, BitVec.ofNat 8 (outfeed / 256),
    BitVec.ofNat 8 reject, BitVec.ofNat 8 (reject / 256)]

theorem reportTelegram_eq : reportTelegram address status code age infeed outfeed reject =
    reportCovered address status code age infeed outfeed reject ++ check (reportCovered address status code age infeed outfeed reject) := rfl

theorem ofNat_toNat_byte {n : Nat} (h : n < 256) : (BitVec.ofNat 8 n).toNat = n := by
  rw [BitVec.toNat_ofNat]
  exact Nat.mod_eq_of_lt h

theorem ofNat_toNat_pair {n : Nat} (h : n < 65536) : (BitVec.ofNat 8 n).toNat + 256 * (BitVec.ofNat 8 (n / 256)).toNat = n := by
  rw [BitVec.toNat_ofNat, BitVec.toNat_ofNat]
  omega

/-- The reply passes the checks that come before its content (R150). -/
def passesChecks (address : Nat) (chars : List Byte) : Prop :=
  chars.length = 14 ∧ chars.getD 0 0#8 = 0xC3#8 ∧ u8 chars 1 = address ∧ chars.getD 2 0#8 = 0xF0#8 ∧ check (chars.take 12) = chars.drop 12

theorem judgeReply_checkError {chars : List Byte} (h : ¬passesChecks address chars) : judgeReply address chars = .checkError := if_neg h

theorem judgeReply_contentError {chars : List Byte} (h : passesChecks address chars)
    (hcode : ReportedState.ofCode (u8 chars 3 % 8) = none) : judgeReply address chars = .contentError :=
  (if_pos h).trans (by rw [hcode])

theorem judgeReply_good {chars : List Byte} {st : ReportedState} (h : passesChecks address chars)
    (hcode : ReportedState.ofCode (u8 chars 3 % 8) = some st) : judgeReply address chars =
      .good { state := st, restart := (u8 chars 3).testBit 7, code := u8 chars 4, age := u8 chars 5
              counters := { infeed := BitVec.ofNat 16 (u16 chars 6), outfeed := BitVec.ofNat 16 (u16 chars 8)
                            reject := BitVec.ofNat 16 (u16 chars 10) } } :=
  (if_pos h).trans (by rw [hcode])

theorem passesChecks_reportTelegram (h : address < 256) :
    passesChecks address (reportTelegram address status code age infeed outfeed reject) :=
  ⟨rfl, rfl, ofNat_toNat_byte h, rfl, rfl⟩

/-- Fourteen bytes that pass the checks are a report telegram of the node. -/
theorem passesChecks_iff_reportTelegram {chars : List Byte} (h : passesChecks address chars) :
    chars = reportTelegram address (u8 chars 3) (u8 chars 4) (u8 chars 5) (u16 chars 6) (u16 chars 8) (u16 chars 10) := by
  obtain ⟨hlength, hstart, haddress, hend, hcheck⟩ := h
  have hcovered : reportCovered address (u8 chars 3) (u8 chars 4) (u8 chars 5) (u16 chars 6) (u16 chars 8) (u16 chars 10) = chars.take 12 := by
    match chars, hlength with
    | [c0, c1, c2, c3, c4, c5, c6, c7, c8, c9, c10, c11, _, _], _ =>
      have hbyte : ∀ c : Byte, BitVec.ofNat 8 c.toNat = c := fun c => BitVec.ofNat_toNat 8 c ▸ BitVec.setWidth_eq c
      have hlow : ∀ c d : Byte, BitVec.ofNat 8 (c.toNat + 256 * d.toNat) = c := fun c d => by
        apply BitVec.eq_of_toNat_eq
        rw [BitVec.toNat_ofNat]
        omega
      have hhigh : ∀ c d : Byte, BitVec.ofNat 8 ((c.toNat + 256 * d.toNat) / 256) = d := fun c d => by
        apply BitVec.eq_of_toNat_eq
        rw [BitVec.toNat_ofNat]
        omega
      have h0 : c0 = 0xC3#8 := hstart
      have h1 : BitVec.ofNat 8 address = c1 := by
        rw [← haddress]
        exact hbyte c1
      have h2 : c2 = 0xF0#8 := hend
      simp only [reportCovered, u8, u16, List.getD_cons_succ, List.getD_cons_zero, List.take_succ_cons, List.take_zero, hbyte, hlow, hhigh, h0,
        h1, h2]
  rw [reportTelegram_eq, hcovered, hcheck, List.take_append_drop]

end

/-! ## The three ends of a slot -/

section
variable {s : State} {k : Fin 4} {r : Round} {st : Station}

theorem State.takeReplyWait_inSlot (h : s.inSlot k r .replyWait st) : s.takeReplyWait k = s.takeOutcome k st.number .timeout := by
  obtain ⟨hround, hphase, hslot⟩ := h
  simp only [State.takeReplyWait, hround, hphase, hslot]

theorem State.takeReplyGap_inSlot {cs : List Byte} (h : s.inSlot k r (.receiving cs false) st) :
    s.takeReplyGap k = s.takeOutcome k st.number .checkError := by
  obtain ⟨hround, hphase, hslot⟩ := h
  simp only [State.takeReplyGap, hround, hphase, hslot]

theorem State.takeReply_inSlot {cs : List Byte} (h : s.inSlot k r (.receiving cs false) st) (w : Pair Byte) : s.takeReply k w =
    if cs.length = 13 then s.takeOutcome k st.number (judgeReply st.address (cs ++ [(s.link k).polarity.read w])) else s := by
  obtain ⟨hround, hphase, hslot⟩ := h
  simp only [State.takeReply, hround, hphase, hslot]

theorem State.takeReplyWait_otherPhase (h : (s.link k).round = some r) (hphase : r.phase ≠ .replyWait) : s.takeReplyWait k = s := by
  simp only [State.takeReplyWait, h]
  split
  · next hp _ => exact absurd hp hphase
  all_goals rfl

theorem State.takeReplyGap_otherPhase (h : (s.link k).round = some r) (hphase : ∀ cs, r.phase ≠ .receiving cs false) :
    s.takeReplyGap k = s := by
  simp only [State.takeReplyGap, h]
  split
  · next hp _ => exact absurd hp (hphase _)
  all_goals rfl

theorem State.takeReply_otherPhase (h : (s.link k).round = some r) (hphase : ∀ cs, r.phase ≠ .receiving cs false) (w : Pair Byte) :
    s.takeReply k w = s := by
  simp only [State.takeReply, h]
  split
  · next hp _ => exact absurd hp (hphase _)
  all_goals rfl

end

/-- Settles O55: each end of a slot takes its outcome, and the reply's is what the judgment makes of its telegram. -/
theorem replyIsJudgedAndTaken : Obligations.ReplyIsJudgedAndTaken := by
  intro s k r st
  refine ⟨fun h => ⟨_, congrArg Host.Outcome.next (State.takeReplyWait_inSlot h), State.takeOutcome_tookOutcome h⟩, fun cs h =>
    ⟨⟨_, congrArg Host.Outcome.next (State.takeReplyGap_inSlot h), State.takeOutcome_tookOutcome h⟩, fun hshort w =>
      congrArg Host.Outcome.next ((State.takeReply_inSlot h w).trans (if_neg hshort)), fun w last hlong hlast => ?_⟩,
    fun hquiet => ?_, fun r' hround => ⟨fun cs within hphase => ?_, fun hphase => ?_⟩⟩
  · have hread : last = (s.link k).polarity.read w := hlast.trans (Polarity.read_eq _ _).symm
    subst hread
    refine ⟨_, _, congrArg Host.Outcome.next ((State.takeReply_inSlot h w).trans (if_pos hlong)), State.takeOutcome_tookOutcome h,
      fun status code age infeed outfeed reject hstatus hcode hage hinfeed houtfeed hreject haddress heq => ?_, fun hnone => ?_⟩
    · have hchecks := passesChecks_reportTelegram (status := status) (code := code) (age := age) (infeed := infeed) (outfeed := outfeed)
        (reject := reject) haddress
      have h3 : u8 (reportTelegram st.address status code age infeed outfeed reject) 3 = status := ofNat_toNat_byte hstatus
      have h4 : u8 (reportTelegram st.address status code age infeed outfeed reject) 4 = code := ofNat_toNat_byte hcode
      have h5 : u8 (reportTelegram st.address status code age infeed outfeed reject) 5 = age := ofNat_toNat_byte hage
      have h6 : u16 (reportTelegram st.address status code age infeed outfeed reject) 6 = infeed := ofNat_toNat_pair hinfeed
      have h8 : u16 (reportTelegram st.address status code age infeed outfeed reject) 8 = outfeed := ofNat_toNat_pair houtfeed
      have h10 : u16 (reportTelegram st.address status code age infeed outfeed reject) 10 = reject := ofNat_toNat_pair hreject
      rw [heq]
      refine ⟨fun hseven => judgeReply_contentError hchecks ?_, fun state hstate => ?_⟩
      · rw [h3, hseven]
        rfl
      · rw [judgeReply_good (st := state) hchecks (by rw [h3, hstate]; exact state.ofCode_code), h3, h4, h5, h6, h8, h10]
    · exact judgeReply_checkError fun hchecks => hnone _ _ _ _ _ _ (passesChecks_iff_reportTelegram hchecks)
  · rcases hquiet with hnone | ⟨r', hround, hphase⟩
    · exact ⟨congrArg Host.Outcome.next (State.takeReplyWait_no_round hnone), congrArg Host.Outcome.next (State.takeReplyGap_no_round hnone),
        fun last => congrArg Host.Outcome.next (State.takeReply_no_round hnone last)⟩
    · have hwait : r'.phase ≠ .replyWait := by
        rcases hphase with hp | ⟨telegram, hp⟩
        · rw [hp]
          nofun
        · rw [hp]
          nofun
      have hreceiving : ∀ cs, r'.phase ≠ .receiving cs false := fun cs => by
        rcases hphase with hp | ⟨telegram, hp⟩
        · rw [hp]
          nofun
        · rw [hp]
          nofun
      exact ⟨congrArg Host.Outcome.next (State.takeReplyWait_otherPhase hround hwait),
        congrArg Host.Outcome.next (State.takeReplyGap_otherPhase hround hreceiving),
        fun last => congrArg Host.Outcome.next (State.takeReply_otherPhase hround hreceiving last)⟩
  · exact congrArg Host.Outcome.next (State.takeReplyWait_otherPhase hround (by rw [hphase]; nofun))
  · have hreceiving : ∀ cs, r'.phase ≠ .receiving cs false := fun cs => by
      rcases hphase with hp | ⟨chars, hp⟩
      · rw [hp]
        nofun
      · rw [hp]
        nofun
    exact ⟨congrArg Host.Outcome.next (State.takeReplyGap_otherPhase hround hreceiving),
      fun last => congrArg Host.Outcome.next (State.takeReply_otherPhase hround hreceiving last)⟩

end Sys2Proof.Machine
end

section
/-! The slot list of a round (R146), and what a dead round comes to by the link's state, dead rounds and polarity mode (R153, R154). -/

namespace Sys2Proof.Machine

/-! ## The slot list -/

theorem linkStations_ascending (stations : List Station) (k : Fin 4) :
    (linkStations stations k).Pairwise fun a b => a.address < b.address := byKey_ascending stations (·.link == k) (·.address) 31

theorem State.mem_linkStations {s : State} (hs : s.enrollmentSound) {k : Fin 4} {r : Station} :
    r ∈ linkStations s.stations k ↔ r ∈ s.stations ∧ r.link = k := by
  have hmem : r ∈ byKey s.stations (·.link == k) (·.address) 31 ↔ r ∈ s.stations ∧ (r.link == k) = true := by
    refine mem_byKey (fun r hr => ?_) fun r hr q hq hrk hqk haddress => (hs.apart hr hq).resolve_right fun happart => ?_
    · obtain ⟨_, _, hrecords, _⟩ := hs
      obtain ⟨⟨_, hlow, hhigh, _⟩, _⟩ := hrecords r hr
      exact ⟨hlow, hhigh⟩
    · obtain ⟨_, hnodes, _⟩ := happart
      exact hnodes ⟨(beq_iff_eq.mp hrk).trans (beq_iff_eq.mp hqk).symm, haddress⟩
  rwa [beq_iff_eq] at hmem

/-! ## What a dead round comes to -/

/-- A notice's Journal does not depend on a link. -/
theorem State.putLink_notify_journal (u : State) (k : Fin 4) (L : Link) (n : NoticeBody) :
    ((u.putLink k L).notify none n).journal = (u.notify none n).journal :=
  (congrArg State.journal (State.notify_putLink u none n k L).symm :)

section
variable {u : State} {k : Fin 4} {r : Round} (hdead : r.validSeen = false)
include hdead

/-- The link is declared without replies: an ACTIVE link at once, a hunt at its third dead round, or at its sixth under AUTO. -/
theorem State.completeRound_faults (h : (u.link k).state = .active
      ∨ ((u.link k).state = .hunt ∧ (u.link k).polarityMode ≠ .auto ∧ 2 ≤ (u.link k).deadRounds)
      ∨ ((u.link k).state = .hunt ∧ (u.link k).polarityMode = .auto ∧ 5 ≤ (u.link k).deadRounds)) :
    ((u.completeRound k r).link k).state = .fault .noReplies ∧ ((u.completeRound k r).link k).deadRounds = 0
    ∧ ((u.completeRound k r).link k).polarity = (u.link k).polarity ∧ (u.completeRound k r).attention.flags.link = true
    ∧ (u.completeRound k r).journal = (u.notify none (.linkFault k .noReplies)).journal := by
  obtain ⟨_, hover⟩ := u.completeRound_roundOver k r _ (u.putLink k) _ rfl (fun _ => rfl) rfl
  obtain ⟨hfaults, _⟩ := hover hdead
  rw [hfaults h, State.latch_link, State.notify_link, State.putLink_link]
  exact ⟨rfl, rfl, rfl, rfl, State.putLink_notify_journal ..⟩

/-- A hunt under AUTO flips at its third dead round. -/
theorem State.completeRound_flips (hstate : (u.link k).state = .hunt) (hmode : (u.link k).polarityMode = .auto)
    (hthird : (u.link k).deadRounds = 2) :
    ((u.completeRound k r).link k).state = .hunt ∧ ((u.completeRound k r).link k).deadRounds = 3
    ∧ ((u.completeRound k r).link k).polarity ≠ (u.link k).polarity
    ∧ ((u.completeRound k r).link k).stats.flips = satAdd (u.link k).stats.flips 1
    ∧ (u.completeRound k r).journal = (u.notify none (.linkPolarity k ((u.completeRound k r).link k).polarity)).journal := by
  obtain ⟨_, hover⟩ := u.completeRound_roundOver k r _ (u.putLink k) _ rfl (fun _ => rfl) rfl
  obtain ⟨_, hflips, _⟩ := hover hdead
  rw [hflips hstate hmode hthird, State.notify_link, State.putLink_link]
  refine ⟨hstate, rfl, ?_, rfl, State.putLink_notify_journal ..⟩
  cases (u.link k).polarity with
  | _ => nofun

/-- Any other dead round of a hunt is counted. -/
theorem State.completeRound_counts (hstate : (u.link k).state = .hunt) (hfew : (u.link k).deadRounds < 2
      ∨ ((u.link k).polarityMode = .auto ∧ 2 < (u.link k).deadRounds ∧ (u.link k).deadRounds < 5)) :
    ((u.completeRound k r).link k).state = .hunt ∧ ((u.completeRound k r).link k).deadRounds = (u.link k).deadRounds + 1
    ∧ ((u.completeRound k r).link k).polarity = (u.link k).polarity ∧ (u.completeRound k r).journal = u.journal
    ∧ (u.completeRound k r).attention = u.attention := by
  obtain ⟨_, hover⟩ := u.completeRound_roundOver k r _ (u.putLink k) _ rfl (fun _ => rfl) rfl
  obtain ⟨_, _, hcounts, _⟩ := hover hdead
  rw [hcounts hstate hfew, State.putLink_link]
  exact ⟨hstate, rfl, rfl, rfl, rfl⟩

/-- In FAULT every third dead round flips under AUTO, and nothing is told. -/
theorem State.completeRound_faulted {w : LinkFault} (hstate : (u.link k).state = .fault w) :
    ((u.completeRound k r).link k).state = .fault w ∧ (u.completeRound k r).journal = u.journal
    ∧ (u.completeRound k r).attention = u.attention
    ∧ ((u.link k).polarityMode = .auto → (u.link k).deadRounds < 2 →
      ((u.completeRound k r).link k).deadRounds = (u.link k).deadRounds + 1
      ∧ ((u.completeRound k r).link k).polarity = (u.link k).polarity)
    ∧ ((u.link k).polarityMode = .auto → 2 ≤ (u.link k).deadRounds → ((u.completeRound k r).link k).deadRounds = 0
      ∧ ((u.completeRound k r).link k).polarity ≠ (u.link k).polarity
      ∧ ((u.completeRound k r).link k).stats.flips = satAdd (u.link k).stats.flips 1)
    ∧ ((u.link k).polarityMode ≠ .auto → ((u.completeRound k r).link k).deadRounds = (u.link k).deadRounds
      ∧ ((u.completeRound k r).link k).polarity = (u.link k).polarity) := by
  obtain ⟨_, hover⟩ := u.completeRound_roundOver k r _ (u.putLink k) _ rfl (fun _ => rfl) rfl
  obtain ⟨_, _, _, hfault, _⟩ := hover hdead
  obtain ⟨hcounts, hflips, hfixed⟩ := hfault w hstate
  by_cases hmode : (u.link k).polarityMode = .auto
  · by_cases hthird : 2 ≤ (u.link k).deadRounds
    · rw [hflips hmode hthird, State.putLink_link]
      refine ⟨hstate, rfl, rfl, fun _ hfew => absurd hthird (Nat.not_le.mpr hfew), fun _ _ => ⟨rfl, ?_, rfl⟩, fun hnot => absurd hmode hnot⟩
      cases (u.link k).polarity with
      | _ => nofun
    · rw [hcounts hmode (Nat.not_le.mp hthird), State.putLink_link]
      exact ⟨hstate, rfl, rfl, fun _ _ => ⟨rfl, rfl⟩, fun _ hmany => absurd hmany hthird, fun hnot => absurd hmode hnot⟩
  · rw [hfixed hmode, State.putLink_link]
    exact ⟨hstate, rfl, rfl, fun hauto => absurd hauto hmode, fun hauto => absurd hauto hmode, fun _ => ⟨rfl, rfl⟩⟩

end

/-! ## The state before the round is completed -/

/-- What the end of a slot without a valid reply leaves before the round is completed: the link as it was but for its counts, and the station's
miss taken unless its line rehearses. -/
structure State.SlotWithoutReply (s u : State) (k : Fin 4) (r : Round) : Prop where
  link   : u.link k = { s.link k with stats := (u.link k).stats, busyRun := (u.link k).busyRun }
  flips  : (u.link k).stats.flips = (s.link k).stats.flips
  others : ∀ k', k' ≠ k → u.link k' = s.link k'
  quiet  : (∀ st, s.slotStation r = some st → s.rehearsing st.line = true) → u = { s with links := u.links }

section
variable {s : State} {k : Fin 4} {r : Round}

/-- A timeout or a check error. -/
theorem State.handOver_withoutReply {phase : SlotPhase} {st : Station} {o : SlotOutcome} (h : s.inSlot k r phase st) (ho : o.isValid = false) :
    s.SlotWithoutReply ((s.linkOutcome k o).handOver st.number o) k r := by
  obtain ⟨hround, _, hslot⟩ := h
  have hlinks : ((s.linkOutcome k o).handOver st.number o).links = (s.linkOutcome k o).links :=
    (Touch.handOver (sc := .allLines) (fun _ => trivial) st.number o).links_same fun _ => id
  have hlink : ((s.linkOutcome k o).handOver st.number o).link k = (s.link k).withOutcome r o :=
    (congrArg (·[k]) hlinks).trans (by rw [State.linkOutcome_invalid hround ho]; exact State.putLink_link ..)
  have hround' : some { r with validSeen := r.validSeen || o.isValid } = (s.link k).round := by rw [ho, Bool.or_false, hround]
  refine ⟨?_, ?_, fun k' hk => ?_, fun hrehearsing => ?_⟩
  · rw [hlink, Link.withOutcome, hround']
  · rw [hlink, Link.withOutcome, LinkStats.count_eq]
  · exact (congrArg (·[k']) hlinks).trans ((State.linkOutcome_onlyLink hround).other hk)
  · have hst : (s.linkOutcome k o).station? st.number = some st := by
      rw [State.station?, (State.linkOutcome_onlyLink hround).stations]
      exact State.slotStation_station? hslot
    have hline : (s.linkOutcome k o).rehearsing st.line = true := by
      rw [State.rehearsing, State.line?, (State.linkOutcome_onlyLink hround).lines]
      exact hrehearsing st hslot
    rw [State.handOver_rehearsing hst hline, State.linkOutcome_invalid hround ho]
    rfl

/-- A busy skip that is not the tenth. -/
theorem State.skippedBusy_withoutReply (h : (s.link k).busyRun ≠ 9) : s.SlotWithoutReply (s.skippedBusy k) k r := by
  rw [State.skippedBusy, if_neg h]
  refine ⟨?_, ?_, fun k' hk => State.putLink_other hk _, fun _ => rfl⟩
  · rw [State.putLink_link]
    rfl
  · rw [State.putLink_link]
    rfl

/-- The round stands as it was. -/
theorem State.SlotWithoutReply.round {u : State} (h : s.SlotWithoutReply u k r) (hround : (s.link k).round = some r) :
    (u.link k).round = some r := by
  rw [h.link]
  exact hround

end

/-- Each of the four ends of a last slot completes the round of a state before it. -/
theorem lastSlot_completes {s : State} {k : Fin 4} {r : Round} {i : Instr} (hlast : r.slots.length ≤ r.next + 1)
    (hends : (∃ st, i = .replyWaitExpiry k ∧ s.inSlot k r .replyWait st)
      ∨ (∃ cs st, i = .replyGapExpiry k ∧ s.inSlot k r (.receiving cs false) st)
      ∨ (∃ cs st w, i = .replyReceived k w ∧ s.inSlot k r (.receiving cs false) st ∧ cs.length = 13
          ∧ judgeReply st.address (cs ++ [(s.link k).polarity.read w]) = .checkError)
      ∨ (∃ level, i = .skippedBusy ⟨k, level⟩ ∧ (s.link k).round = some r ∧ r.phase = .idleCheck
          ∧ (s.link k).polarity.seesStart level = true ∧ (s.link k).busyRun ≠ 9)) :
    ∃ u, s.SlotWithoutReply u k r ∧ exec i s = .next (u.completeRound k r) := by
  have hfinish : ∀ {u t : State}, (s.link k).round = some r → s.SlotWithoutReply u k r → t = u.nextSlot k →
      ∃ u, s.SlotWithoutReply u k r ∧ Host.Outcome.next (φ := Fault) (ρ := Refusal) t = .next (u.completeRound k r) :=
    fun {u t} hround hbefore ht => ⟨u, hbefore, congrArg _ (ht.trans (State.nextSlot_completes (hbefore.round hround) hlast))⟩
  rcases hends with ⟨st, rfl, h⟩ | ⟨cs, st, rfl, h⟩ | ⟨cs, st, w, rfl, h, hlength, hjudged⟩ | ⟨level, rfl, hround, hphase, hstart, hrun⟩
  · exact hfinish h.1 (State.handOver_withoutReply h rfl) (State.takeReplyWait_inSlot h)
  · exact hfinish h.1 (State.handOver_withoutReply h rfl) (State.takeReplyGap_inSlot h)
  · refine hfinish h.1 (State.handOver_withoutReply (o := .checkError) h rfl) ((State.takeReply_inSlot h w).trans ?_)
    rw [if_pos hlength, hjudged]
    rfl
  · exact hfinish hround (State.skippedBusy_withoutReply hrun) (State.takeBusy_start hround hphase hstart)

/-- Settles O56: the slots by `mem_linkStations`; a dead round by the state before its completion. -/
theorem roundsAreListedAndDeadRoundsCounted : Obligations.RoundsAreListedAndDeadRoundsCounted := by
  refine ⟨fun s k hs => ⟨linkStations s.stations k, linkStations_ascending s.stations k, fun r => State.mem_linkStations hs, rfl⟩,
    fun s k r i hlast hdead hends => ?_⟩
  obtain ⟨u, hbefore, hexec⟩ := lastSlot_completes hlast hends
  obtain ⟨honly, M, hsame, hlink⟩ := u.completeRound_leaves k r
  have hstate : (u.link k).state = (s.link k).state := (congrArg Link.state hbefore.link :)
  have hmode : (u.link k).polarityMode = (s.link k).polarityMode := (congrArg Link.polarityMode hbefore.link :)
  have hcount : (u.link k).deadRounds = (s.link k).deadRounds := (congrArg Link.deadRounds hbefore.link :)
  have hpolarity : (u.link k).polarity = (s.link k).polarity := (congrArg Link.polarity hbefore.link :)
  refine ⟨u, u.completeRound k r, hexec, u.completeRound_roundOver k r, ?_, hbefore.link, hbefore.flips,
    fun k' hk => (honly.other hk).trans (hbefore.others k' hk), honly.frame, hbefore.quiet, ?_, ?_⟩
  · rw [hlink]
    rfl
  · rw [hlink, ← hmode]
    exact hsame.mode
  · rw [← hstate, ← hmode, ← hcount, ← hpolarity, ← hbefore.flips]
    exact ⟨State.completeRound_faults hdead, State.completeRound_flips hdead, State.completeRound_counts hdead,
      fun w => State.completeRound_faulted hdead⟩

end Sys2Proof.Machine
end

section
/-! COMMIT (R186): the test of the configuration, and what entry to MONITORING does to each line and each link. -/

namespace Sys2Proof.Machine

/-! ## A turn for each item -/

/-- Turns of other items leave what they do not reach. -/
theorem foldl_leaves {α β γ : Type} {f : β → α → β} {P : β → γ} {as : List α} (h : ∀ b, ∀ a ∈ as, P (f b a) = P b) (b : β) :
    P (as.foldl f b) = P b := by
  induction as generalizing b with
  | nil => rfl
  | cons a as ih =>
    exact (ih (fun b x hx => h b x (List.mem_cons_of_mem a hx)) (f b a)).trans (h b a List.mem_cons_self)

/-- What each turn keeps, all turns keep. -/
theorem foldl_related {α β : Type} {f : β → α → β} {R : β → β → Prop} (hrefl : ∀ b, R b b) (htrans : ∀ {a b c}, R a b → R b c → R a c)
    (hstep : ∀ b a, R b (f b a)) (as : List α) (b : β) : R b (as.foldl f b) := by
  induction as generalizing b with
  | nil => exact hrefl b
  | cons a as ih => exact htrans (hstep b a) (ih (f b a))

/-- Where the turns of the others leave what an item's turn reaches, the whole does to it what its own turn does, from a state that has it as it
was at first. -/
theorem foldl_turn {α β γ : Type} {f : β → α → β} {R : β → β → Prop} (hrefl : ∀ b, R b b) (htrans : ∀ {a b c}, R a b → R b c → R a c)
    (hstep : ∀ b a, R b (f b a)) {P : β → γ} {a : α} (hother : ∀ b a', a' ≠ a → P (f b a') = P b) {as : List α} (hnodup : as.Nodup)
    (ha : a ∈ as) (b : β) : ∃ u, R b u ∧ P u = P b ∧ P (as.foldl f b) = P (f u a) := by
  induction as generalizing b with
  | nil => exact absurd ha List.not_mem_nil
  | cons x as ih =>
    obtain ⟨hx, hnodup⟩ := List.nodup_cons.mp hnodup
    by_cases hax : a = x
    · subst hax
      exact ⟨b, hrefl b, rfl, foldl_leaves (fun b' a' ha' => hother b' a' fun e => hx (e ▸ ha')) (f b a)⟩
    · obtain ⟨u, hu, hsame, hturn⟩ := ih hnodup ((List.mem_cons.mp ha).resolve_left hax) (f b x)
      exact ⟨u, htrans (hstep b x) hu, hsame.trans (hother b x fun e => hax e.symm), hturn⟩

theorem allLines_ascending : allLines.Pairwise (· < ·) := by decide

theorem mem_allLinks (k : Fin 4) : k ∈ allLinks := by
  revert k
  decide

theorem allLinks_nodup : allLinks.Nodup := by decide

/-! ## The test of the configuration -/

section
variable {s : State} {l : Fin 8}

theorem lineFault_none_iff {stations : List Station} : lineFault stations l = none ↔ rolesFilled stations l := by
  refine ⟨lineFault_none, fun ⟨hconstraint, hfinish⟩ => ?_⟩
  have hsome : (stations.filter fun r => r.line == l).isEmpty = false := by
    cases hrs : stations.filter fun r => r.line == l with
    | nil =>
      rw [hrs] at hconstraint
      cases hconstraint
    | cons r rs => rfl
  simp only [lineFault, hsome, hconstraint, hfinish]
  rfl

/-- The code of what is wrong with a line. -/
theorem lineFault_code {stations : List Station} {why : CommitReason} (h : lineFault stations l = some why) : why.code =
    if stations.countP (fun r => r.line == l) = 0 then 2
    else if stations.countP (fun r => r.line == l && r.constraint) ≠ 1 then 3 else 4 := by
  have hcount : (stations.filter fun r => r.line == l).countP (·.constraint) = stations.countP fun r => r.line == l && r.constraint := by
    rw [List.countP_filter]
    exact List.countP_congr fun r _ => by rw [Bool.and_comm]
  have hempty : (stations.filter fun r => r.line == l).isEmpty = true ↔ stations.countP (fun r => r.line == l) = 0 := by
    rw [List.isEmpty_iff, List.countP_eq_length_filter, List.length_eq_zero_iff]
  simp only [lineFault, hcount] at h
  split at h
  · next h1 =>
    cases h
    rw [if_pos (hempty.mp h1)]
    rfl
  · next h1 =>
    rw [if_neg (mt hempty.mpr h1)]
    split at h
    · next h2 =>
      cases h
      rw [if_pos h2]
      rfl
    · next h2 =>
      rw [if_neg h2]
      split at h
      · cases h
        rfl
      · cases h

theorem State.configFault_noLines (h : ∀ l, s.line? l = none) : s.configFault = some (255, .noLines) := by
  have hnone : s.definedLines = [] := List.eq_nil_iff_forall_not_mem.mpr fun l hl => by
    rw [State.mem_definedLines, h l] at hl
    cases hl
  simp only [State.configFault, hnone]
  rfl

theorem State.definedLines_nonempty (h : (s.line? l).isSome) : s.definedLines.isEmpty = false :=
  List.isEmpty_eq_false_iff_exists_mem.mpr ⟨l, State.mem_definedLines.mpr h⟩

/-- The first line in ascending order that fails is the one reported. -/
theorem State.configFault_first {why : CommitReason} (hl : (s.line? l).isSome)
    (hbefore : ∀ l', l' < l → (s.line? l').isSome → rolesFilled s.stations l') (hwhy : lineFault s.stations l = some why) :
    s.configFault = some (l.val, why) := by
  have hascending : s.definedLines.Pairwise (· < ·) := allLines_ascending.filter _
  obtain ⟨before, after, hsplit⟩ := List.append_of_mem (State.mem_definedLines.mpr hl)
  rw [State.configFault, if_neg (by rw [State.definedLines_nonempty hl]; nofun)]
  refine List.findSome?_eq_some_iff.mpr ⟨before, l, after, hsplit, by rw [hwhy]; rfl, fun l' hl' => ?_⟩
  rw [hsplit] at hascending
  have hlt : l' < l := (List.pairwise_append.mp hascending).2.2 l' hl' l List.mem_cons_self
  have hdefined : (s.line? l').isSome := State.mem_definedLines.mp (hsplit ▸ List.mem_append_left _ hl')
  rw [lineFault_none_iff.mpr (hbefore l' hlt hdefined)]
  rfl

theorem State.configFault_sound (hl : (s.line? l).isSome) (hall : ∀ l, (s.line? l).isSome → rolesFilled s.stations l) :
    s.configFault = none := by
  rw [State.configFault, if_neg (by rw [State.definedLines_nonempty hl]; nofun)]
  refine List.findSome?_eq_none_iff.mpr fun l' hl' => ?_
  rw [lineFault_none_iff.mpr (hall l' (State.mem_definedLines.mp hl'))]
  rfl

end

/-! ## Entry of a line -/

/-- Entry of lines changes lines, period counters and draws alone. -/
def State.OnlyLines (s t : State) : Prop :=
  t = { s with lines := t.lines, periodCounter := t.periodCounter, freeDraws := t.freeDraws }

theorem State.OnlyLines.refl (s : State) : s.OnlyLines s := rfl

theorem State.OnlyLines.trans {s t u : State} (h : s.OnlyLines t) (h' : t.OnlyLines u) : s.OnlyLines u := by
  unfold State.OnlyLines at *
  rw [h', h]

section
variable {s : State} {l : Fin 8} {ln : Line}

theorem State.takePeriodNumber_onlyLines (s : State) (l : Fin 8) : s.OnlyLines (s.takePeriodNumber l).2 := by
  simp only [State.takePeriodNumber, State.countUp]
  split
  · rfl
  · rfl

/-- The period that a line's entry opens. -/
def State.enteringPeriod (s : State) (l : Fin 8) (ln : Line) : Period :=
  Period.opened l (s.takePeriodNumber l).1 s.runClock s.plantTime false false false ln.defn.initialProduct (lineStations s.stations l)

theorem State.enterLine_undefined (h : s.line? l = none) : s.enterLine l = s := by simp only [State.enterLine, h]

theorem State.enterLine_defined (h : s.line? l = some ln) :
    s.enterLine l = (s.takePeriodNumber l).2.setLine l (some (ln.entered (s.enteringPeriod l ln) s.runClock)) := by
  simp only [State.enterLine, h, State.enteringPeriod]

theorem State.enterLine_onlyLines (s : State) (l : Fin 8) : s.OnlyLines (s.enterLine l) := by
  cases h : s.line? l with
  | none =>
    rw [State.enterLine_undefined h]
    exact .refl s
  | some ln =>
    rw [State.enterLine_defined h]
    exact (s.takePeriodNumber_onlyLines l).trans rfl

theorem State.enterLine_other (s : State) {l l' : Fin 8} (h : l' ≠ l) :
    ((s.enterLine l').line? l, (s.enterLine l').periodCounter[l]) = (s.line? l, s.periodCounter[l]) := by
  have ⟨hline, _, _, hcounter⟩ :=
    (Touch.enterLine (sc := { Scope.ofLine l' with part := True }) (s := s) rfl trivial).otherLine l fun e => h e.symm
  rw [hline, hcounter]

/-- What the entry of all lines does to one: what its own entry does, from a state that has its line and counter as they were. -/
theorem State.linesEntered_turn (s : State) (l : Fin 8) : ∃ u, s.OnlyLines u ∧ (u.line? l, u.periodCounter[l]) = (s.line? l, s.periodCounter[l])
    ∧ ((allLines.foldl State.enterLine s).line? l, (allLines.foldl State.enterLine s).periodCounter[l])
      = ((u.enterLine l).line? l, (u.enterLine l).periodCounter[l]) :=
  foldl_turn (P := fun u => (u.line? l, u.periodCounter[l])) State.OnlyLines.refl State.OnlyLines.trans State.enterLine_onlyLines
    (fun u _ => u.enterLine_other) allLines_nodup (mem_allLines l) s

theorem State.linesEntered_undefined (h : s.line? l = none) : (allLines.foldl State.enterLine s).line? l = none
    ∧ (allLines.foldl State.enterLine s).periodCounter[l] = s.periodCounter[l] := by
  obtain ⟨u, _, hsame, hturn⟩ := s.linesEntered_turn l
  obtain ⟨hline, hcounter⟩ := Prod.mk.inj hsame
  obtain ⟨hline', hcounter'⟩ := Prod.mk.inj hturn
  rw [State.enterLine_undefined (hline.trans h)] at hline' hcounter'
  exact ⟨hline'.trans (hline.trans h), hcounter'.trans hcounter⟩

theorem State.linesEntered_defined (h : s.line? l = some ln) :
    (s.periodCounter[l].toNat < 4294967295 → (allLines.foldl State.enterLine s).periodCounter[l] = s.periodCounter[l] + 1#32)
    ∧ (allLines.foldl State.enterLine s).line? l = some (ln.entered (Period.opened l (allLines.foldl State.enterLine s).periodCounter[l]
        s.runClock s.plantTime false false false ln.defn.initialProduct (lineStations s.stations l)) s.runClock) := by
  obtain ⟨u, honly, hsame, hturn⟩ := s.linesEntered_turn l
  obtain ⟨hline, hcounter⟩ := Prod.mk.inj hsame
  obtain ⟨hline', hcounter'⟩ := Prod.mk.inj hturn
  have hown := State.enterLine_defined (hline.trans h)
  have hnumber : (u.enterLine l).periodCounter[l] = (u.takePeriodNumber l).1 := by
    rw [hown]
    exact u.takePeriodNumber_counter l
  have hclock : u.runClock = s.runClock := by rw [honly]
  have hplant : u.plantTime = s.plantTime := State.plantTime_congr hclock (by rw [honly])
  have hstations : u.stations = s.stations := by rw [honly]
  rw [hline', hcounter', hnumber, hown, State.line?_setLine_same, State.enteringPeriod, hclock, hplant, hstations]
  refine ⟨fun hbelow => ?_, rfl⟩
  rw [← hcounter] at hbelow
  rw [u.takePeriodNumber_below hbelow, hcounter]

end

/-! ## Entry of a link -/

/-- Entry of links changes links alone. -/
def State.OnlyLinks (s t : State) : Prop := t = { s with links := t.links }

theorem State.OnlyLinks.refl (s : State) : s.OnlyLinks s := rfl

theorem State.OnlyLinks.trans {s t u : State} (h : s.OnlyLinks t) (h' : t.OnlyLinks u) : s.OnlyLinks u := by
  unfold State.OnlyLinks at *
  rw [h', h]

section
variable {s : State} {k : Fin 4}

theorem State.enterLink_unused (h : linkStations s.stations k = []) : s.enterLink k = s := by
  rw [State.enterLink, h]
  rfl

theorem State.enterLink_used (h : linkStations s.stations k ≠ []) : s.enterLink k = s.putLink k { s.link k with
    state := .hunt, deadRounds := 0, busyRun := 0, nextRound := none
    round := some (Round.starting (slotList s.stations k) s.runClock) } := by
  rw [State.enterLink, if_neg (mt List.isEmpty_iff.mp h), State.beginRound, State.updLink_eq, State.updLink_eq, State.putLink_link,
    State.putLink_putLink]
  rfl

theorem State.enterLink_onlyLinks (s : State) (k : Fin 4) : s.OnlyLinks (s.enterLink k) := by
  by_cases h : linkStations s.stations k = []
  · rw [State.enterLink_unused h]
    exact .refl s
  · rw [State.enterLink_used h]
    rfl

theorem State.enterLink_other (s : State) {k k' : Fin 4} (h : k' ≠ k) : (s.enterLink k').link k = s.link k :=
  (Touch.enterLink (sc := .ofLink k') (s := s) rfl).otherLink k fun e => h e.symm

theorem State.linksEntered_onlyLinks (s : State) : s.OnlyLinks (allLinks.foldl State.enterLink s) :=
  foldl_related State.OnlyLinks.refl State.OnlyLinks.trans State.enterLink_onlyLinks allLinks s

/-- What the entry of all links does to one. -/
theorem State.linksEntered_link (s : State) (k : Fin 4) :
    (linkStations s.stations k = [] → (allLinks.foldl State.enterLink s).link k = s.link k)
    ∧ (linkStations s.stations k ≠ [] → (allLinks.foldl State.enterLink s).link k = { s.link k with
        state := .hunt, deadRounds := 0, busyRun := 0, nextRound := none
        round := some (Round.starting (slotList s.stations k) s.runClock) }) := by
  obtain ⟨u, honly, hsame, hturn⟩ := foldl_turn (P := fun u : State => u.link k) State.OnlyLinks.refl State.OnlyLinks.trans
    State.enterLink_onlyLinks (fun u _ => u.enterLink_other) allLinks_nodup (mem_allLinks k) s
  have hstations : u.stations = s.stations := by rw [honly]
  have hclock : u.runClock = s.runClock := by rw [honly]
  refine ⟨fun hunused => ?_, fun hused => ?_⟩
  · rw [← hstations] at hunused
    rw [hturn, State.enterLink_unused hunused, hsame]
  · rw [← hstations] at hused
    rw [hturn, State.enterLink_used hused, State.putLink_link, hsame, hstations, hclock]

end

/-! ## The stations begun anew -/

theorem linkStations_map {f : Station → Station} (hlink : ∀ r, (f r).link = r.link) (haddress : ∀ r, (f r).address = r.address)
    (stations : List Station) (k : Fin 4) : linkStations (stations.map f) k = (linkStations stations k).map f := by
  unfold linkStations
  rw [List.map_filterMap]
  refine congrArg (List.filterMap · _) (funext fun a => ?_)
  rw [List.find?_map]
  exact congrArg (Option.map f ·) (congrArg (List.find? · stations) (funext fun r => by simp [hlink, haddress]))

theorem slotList_map {f : Station → Station} (hlink : ∀ r, (f r).link = r.link) (haddress : ∀ r, (f r).address = r.address)
    (hconstraint : ∀ r, (f r).constraint = r.constraint) (hnumber : ∀ r, (f r).number = r.number) (stations : List Station) (k : Fin 4) :
    slotList (stations.map f) k = slotList stations k := by
  have hfilter : ((·.constraint) ∘ f : Station → Bool) = (·.constraint) := funext hconstraint
  have hnumbers : ((·.number) ∘ f : Station → Nat) = (·.number) := funext hnumber
  simp only [slotList, linkStations_map hlink haddress, List.length_map, ← List.map_take, ← List.map_drop, List.filter_map, hfilter,
    ← List.map_append, List.map_map, hnumbers]

theorem enteringStations_lineStations (s : State) (l : Fin 8) :
    lineStations s.entering.stations l = (lineStations s.stations l).map (·.restarted s.runClock) :=
  lineStations_map (f := (·.restarted s.runClock)) (fun _ => rfl) (fun _ => rfl) s.stations l

/-- The stations of a period are told by their numbers. -/
theorem Period.opened_map {f : Station → Station} (hnumber : ∀ r, (f r).number = r.number) (l : Fin 8) (n : BitVec 32) (at_ : Tick)
    (plant : Option PlantTime) (product : Nat) (stations : List Station) :
    Period.opened l n at_ plant false false false product (stations.map f) = Period.opened l n at_ plant false false false product stations := by
  simp only [Period.opened, List.map_map, Function.comp_def, hnumber]

/-! ## Entry to MONITORING -/

section
variable {s : State}

theorem State.enterMonitoring_eq (s : State) : s.enterMonitoring = allLinks.foldl State.enterLink (allLines.foldl State.enterLine s.entering) := rfl

theorem State.linesEntered_onlyLines (s : State) : s.OnlyLines (allLines.foldl State.enterLine s) :=
  foldl_related State.OnlyLines.refl State.OnlyLines.trans State.enterLine_onlyLines allLines s

theorem State.enterMonitoring_periodCounter (s : State) :
    s.enterMonitoring.periodCounter = (allLines.foldl State.enterLine s.entering).periodCounter := by
  rw [State.enterMonitoring_eq, State.linksEntered_onlyLinks]

theorem State.OnlyLines.andLinks {s t u : State} (h : s.OnlyLines u) (h' : u.OnlyLinks t) : t = { s with
    lines := t.lines, periodCounter := t.periodCounter, links := t.links, freeDraws := t.freeDraws } := by
  unfold State.OnlyLines at h
  unfold State.OnlyLinks at h'
  rw [h', h]

/-- Entry changes the part state, the stations, and what lines, links and draws hold. -/
theorem State.enterMonitoring_frame (s : State) : s.enterMonitoring = { s with
    partState := .monitoring, lines := s.enterMonitoring.lines, periodCounter := s.enterMonitoring.periodCounter
    links := s.enterMonitoring.links, freeDraws := s.enterMonitoring.freeDraws
    stations := s.stations.map (·.restarted s.runClock) } :=
  State.OnlyLines.andLinks s.entering.linesEntered_onlyLines (allLines.foldl State.enterLine s.entering).linksEntered_onlyLinks

theorem State.enterMonitoring_line?_eq (s : State) (l : Fin 8) :
    s.enterMonitoring.line? l = (allLines.foldl State.enterLine s.entering).line? l := by
  rw [State.line?, State.enterMonitoring_lines]
  rfl

/-- A defined line, and the number of its period. -/
theorem State.enterMonitoring_line {l : Fin 8} {ln : Line} (h : s.line? l = some ln) :
    (s.periodCounter[l].toNat < 4294967295 → s.enterMonitoring.periodCounter[l] = s.periodCounter[l] + 1#32)
    ∧ s.enterMonitoring.line? l = some (ln.entered (Period.opened l s.enterMonitoring.periodCounter[l]
        s.runClock s.plantTime false false false ln.defn.initialProduct (lineStations s.stations l)) s.runClock) := by
  obtain ⟨hcounter, hline⟩ := State.linesEntered_defined (s := s.entering) (l := l) (ln := ln) h
  rw [enteringStations_lineStations, Period.opened_map (f := (·.restarted s.runClock)) fun _ => rfl] at hline
  rw [State.enterMonitoring_line?_eq, State.enterMonitoring_periodCounter]
  exact ⟨hcounter, hline⟩

theorem State.enterMonitoring_undefined {l : Fin 8} (h : s.line? l = none) :
    s.enterMonitoring.line? l = none ∧ s.enterMonitoring.periodCounter[l] = s.periodCounter[l] := by
  rw [State.enterMonitoring_line?_eq, State.enterMonitoring_periodCounter]
  exact State.linesEntered_undefined (s := s.entering) h

theorem State.enterMonitoring_link (s : State) (k : Fin 4) :
    (linkStations s.stations k = [] → s.enterMonitoring.link k = s.link k)
    ∧ (linkStations s.stations k ≠ [] → s.enterMonitoring.link k = { s.link k with
        state := .hunt, deadRounds := 0, busyRun := 0, nextRound := none
        round := some (Round.starting (slotList s.stations k) s.runClock) }) := by
  have hlines := s.entering.linesEntered_onlyLines
  have hlinks := (allLines.foldl State.enterLine s.entering).linksEntered_link k
  have hlinked : ∀ k, (allLines.foldl State.enterLine s.entering).link k = s.link k := fun k => by
    rw [hlines]
    rfl
  have hstations : (allLines.foldl State.enterLine s.entering).stations = s.stations.map (·.restarted s.runClock) := by
    rw [hlines]
    rfl
  have hclock : (allLines.foldl State.enterLine s.entering).runClock = s.runClock := by
    rw [hlines]
    rfl
  rw [hlinked, hstations, hclock, slotList_map (f := (·.restarted s.runClock)) (fun _ => rfl) (fun _ => rfl) (fun _ => rfl) (fun _ => rfl),
    linkStations_map (f := (·.restarted s.runClock)) (fun _ => rfl) (fun _ => rfl)] at hlinks
  obtain ⟨hunused, hused⟩ := hlinks
  exact ⟨fun h => hunused (by rw [h]; rfl), fun h => hused (mt List.map_eq_nil_iff.mp h)⟩

theorem State.enterMonitoring_definedLines (s : State) : s.enterMonitoring.definedLines = s.definedLines :=
  List.filter_congr fun l _ => by
    cases h : s.line? l with
    | none => rw [(State.enterMonitoring_undefined h).1]
    | some ln => rw [(State.enterMonitoring_line h).2]; rfl

theorem State.enterMonitoring_openNumber {l : Fin 8} (h : l ∈ s.definedLines) :
    s.enterMonitoring.openNumber l = s.enterMonitoring.periodCounter[l] := by
  obtain ⟨ln, hln⟩ := Option.isSome_iff_exists.mp (State.mem_definedLines.mp h)
  rw [State.openNumber, State.live?_of_line? (State.enterMonitoring_line hln).2]
  rfl

/-- The lines of a list in a response: their number, then each. -/
theorem encList_definedLines (s : State) (enc enc' : Fin 8 → List Byte) (h : ∀ l ∈ s.definedLines, enc l = enc' l) :
    encList enc s.definedLines = enc1 (allLines.countP fun l => (s.line? l).isSome)
      ++ (allLines.filter fun l => (s.line? l).isSome).flatMap enc' := by
  rw [encList, List.countP_eq_length_filter, List.flatMap_def, List.map_congr_left h, ← List.flatMap_def]
  rfl

theorem State.enterMonitoring_payload (s : State) : s.enterMonitoring.commitPayload = encTick s.runClock
    ++ enc1 (allLines.countP fun l => (s.line? l).isSome)
    ++ (allLines.filter fun l => (s.line? l).isSome).flatMap fun l => enc1 l.val ++ encTick s.enterMonitoring.periodCounter[l] := by
  have hclock : s.enterMonitoring.runClock = s.runClock := by rw [State.enterMonitoring_frame]
  rw [State.commitPayload, hclock, State.enterMonitoring_definedLines, encList_definedLines s _ _ fun l hl => by
    rw [State.enterMonitoring_openNumber hl]]
  exact (List.append_assoc _ _ _).symm

/-! ## The answers of COMMIT -/

theorem commitReq_monitoring (h : s.partState = .monitoring) : commitReq [] s = (s, .refuse .wrongState) := by
  simp only [commitReq, h]

theorem commitReq_fault {f : Nat × CommitReason} (h : s.partState = .configuring) (hfault : s.configFault = some f) :
    commitReq [] s = (s, { result := .invalidConfig, payload := enc1 f.1 ++ enc1 f.2.code }) := by
  simp only [commitReq, h, hfault]

theorem commitReq_ok (h : s.partState = .configuring) (hfault : s.configFault = none) :
    commitReq [] s = (s.enterMonitoring, .ok s.enterMonitoring.commitPayload) := by
  simp only [commitReq, h, hfault]

end

/-- Settles O50: the refusals by `State.configFault`; the entry of each line and each link by its own turn. -/
theorem commitChecksThenEntersMonitoring : Obligations.CommitChecksThenEntersMonitoring := by
  intro s hready
  have hexec : ∀ {t : State} {reply : Reply}, commitReq [] s = (t, reply) → exec (.commit []) s = .next (t.respond 0x06#8 reply) :=
    fun h => exec_of_requestBlock (i := .commit []) rfl hready (List.mem_singleton_self _) h
  refine ⟨fun hm => hexec (commitReq_monitoring hm), fun hc => ⟨fun hnone => hexec (commitReq_fault hc (State.configFault_noLines hnone)),
    fun l hl hbefore hfails => ?_, fun ⟨l, hl⟩ hall => ?_⟩⟩
  · obtain ⟨why, hwhy⟩ := Option.ne_none_iff_exists'.mp (mt lineFault_none_iff.mp hfails)
    exact ⟨why.code, hexec (commitReq_fault hc (State.configFault_first hl hbefore hwhy)), lineFault_code hwhy⟩
  · refine ⟨s.enterMonitoring, ?_, s.enterMonitoring_frame, fun l => State.enterMonitoring_undefined, fun l ln =>
      State.enterMonitoring_line, s.enterMonitoring_link⟩
    rw [← State.enterMonitoring_payload]
    exact hexec (commitReq_ok hc (State.configFault_sound hl hall))

end Sys2Proof.Machine
end

section
/-! SUSPEND (R187): what leaving MONITORING does to each line, and what it queues. -/

namespace Sys2Proof.Machine

/-! ## What the Journal hears -/

/-- Two states hold the same Journal and flags at the same instant: what they queue next is the same. -/
structure State.Agrees (s t : State) : Prop where
  journal   : s.journal = t.journal
  attention : s.attention = t.attention
  runClock  : s.runClock = t.runClock
  plant     : s.plant = t.plant

section
variable {s t u : State}

theorem State.Agrees.refl (s : State) : s.Agrees s := ⟨rfl, rfl, rfl, rfl⟩

theorem State.Agrees.trans (h : s.Agrees t) (h' : t.Agrees u) : s.Agrees u :=
  ⟨h.journal.trans h'.journal, h.attention.trans h'.attention, h.runClock.trans h'.runClock, h.plant.trans h'.plant⟩

theorem State.Agrees.notify (h : s.Agrees t) (o : Option (Fin 8)) (n : NoticeBody) : (s.notify o n).Agrees (t.notify o n) := by
  obtain ⟨hjournal, hattention⟩ := State.notify_congr (s := t) (t := s) o n h.journal h.attention h.runClock h.plant
  exact ⟨hjournal, hattention, by rw [State.notify_runClock, State.notify_runClock, h.runClock],
    by rw [State.notify_plant, State.notify_plant, h.plant]⟩

theorem State.Agrees.latch (h : s.Agrees t) (f : AttentionFlag) : (s.latch f).Agrees (t.latch f) :=
  ⟨h.journal, congrArg (·.latch f) h.attention, h.runClock, h.plant⟩

/-- Latching PERIOD and queuing a notice do not hinder one another. -/
theorem State.latch_notify (s : State) (o : Option (Fin 8)) (n : NoticeBody) :
    (s.latch .period).notify o n = (s.notify o n).latch .period := by
  unfold State.notify
  rw [State.latch_journal]
  split
  · rfl
  · split
    · rw [State.enqueue_eq, State.enqueue_eq]
      rfl
    · rfl

/-- Notices queued one after another. -/
def State.told (s : State) (ns : List (Fin 8 × NoticeBody)) : State := ns.foldl (fun u n => u.notify (some n.1) n.2) s

theorem State.Agrees.told (h : s.Agrees t) (ns : List (Fin 8 × NoticeBody)) : (s.told ns).Agrees (t.told ns) := by
  induction ns generalizing s t with
  | nil => exact h
  | cons n ns ih => exact ih (h.notify _ _)

theorem State.latch_told (s : State) (ns : List (Fin 8 × NoticeBody)) : (s.latch .period).told ns = (s.told ns).latch .period := by
  induction ns generalizing s with
  | nil => rfl
  | cons n ns ih =>
    show ((s.latch .period).notify (some n.1) n.2).told ns = _
    rw [State.latch_notify, ih]
    rfl

theorem State.told_append (s : State) (ns ms : List (Fin 8 × NoticeBody)) : (s.told ns).told ms = s.told (ns ++ ms) :=
  (List.foldl_append ..).symm

/-- Notices queued, with PERIOD latched if there is one. -/
def State.announced (s : State) (ns : List (Fin 8 × NoticeBody)) : State := if ns.isEmpty then s else (s.told ns).latch .period

theorem State.announced_journal (s : State) (ns : List (Fin 8 × NoticeBody)) : (s.announced ns).journal = (s.told ns).journal := by
  cases ns with
  | nil => rfl
  | cons n ns => rfl

theorem State.announced_latched {ns : List (Fin 8 × NoticeBody)} (h : ns ≠ []) : s.announced ns = (s.told ns).latch .period :=
  if_neg (mt List.isEmpty_iff.mp h)

theorem State.announced_append (s : State) (ns ms : List (Fin 8 × NoticeBody)) :
    (s.announced ns).announced ms = s.announced (ns ++ ms) := by
  cases ns with
  | nil => rfl
  | cons n ns =>
    cases ms with
    | nil => rw [List.append_nil]; rfl
    | cons m ms =>
      show (((s.told (n :: ns)).latch .period).told (m :: ms)).latch .period = (s.told (n :: ns ++ m :: ms)).latch .period
      rw [State.latch_told, State.told_append]
      rfl

theorem State.Agrees.announced (h : s.Agrees t) (ns : List (Fin 8 × NoticeBody)) : (s.announced ns).Agrees (t.announced ns) := by
  cases ns with
  | nil => exact h
  | cons n ns => exact (h.told _).latch _

end

/-! ## One line leaves -/

theorem State.onLine_of_live? {s : State} {l : Fin 8} {lv : Live} (h : s.live? l = some lv) : ∃ ln, s.onLine l ln lv := by
  obtain ⟨ln, hline, hlive⟩ := Option.bind_eq_some_iff.mp h
  exact ⟨ln, hline, hlive⟩

theorem State.live?_undefined {s : State} {l : Fin 8} (h : s.line? l = none) : s.live? l = none := by rw [State.live?, h]; rfl

/-- In MONITORING a line is live exactly when it is defined. -/
theorem State.partSound.live_isSome {s : State} (hs : s.partSound) (hm : s.partState = .monitoring) (l : Fin 8) :
    (s.live? l).isSome = (s.line? l).isSome := by
  cases hline : s.line? l with
  | none => rw [State.live?_undefined hline]; rfl
  | some ln =>
    obtain ⟨hlive, _⟩ := hs
    rw [State.live?_of_line? hline, (hlive l ln hline).mpr hm]
    rfl

/-- What SUSPEND queues for a line: its period's close, and the abandonment of a stoppage. -/
def State.suspendNotices (s : State) (l : Fin 8) : List (Fin 8 × NoticeBody) :=
  match s.live? l with
  | none => []
  | some lv => (l, .periodClosed lv.period.number .suspend (displacedBy s.store[l])) :: (match lv.condition.stoppage? with
    | none => []
    | some st => [(l, .stopClosed st.number s.runClock (if st.capped then 2147483647#32 else s.runClock - st.start) .abandoned st.segments)])

section
variable {s : State} {l : Fin 8} {ln : Line} {lv : Live}

theorem State.suspendNotices_stoppage {st : Stoppage} (h : s.onLine l ln lv) (hst : lv.condition.stoppage? = some st) : s.suspendNotices l =
    [(l, .periodClosed lv.period.number .suspend (displacedBy s.store[l])), (l, st.closedNotice s.runClock .abandoned)] := by
  simp only [State.suspendNotices, h.live?_eq, hst]
  rfl

theorem State.suspendNotices_close (h : s.onLine l ln lv) (hst : lv.condition.stoppage? = none) : s.suspendNotices l =
    [(l, .periodClosed lv.period.number .suspend (displacedBy s.store[l]))] := by
  simp only [State.suspendNotices, h.live?_eq, hst]

theorem State.suspendNotices_notLive (h : s.live? l = none) : s.suspendNotices l = [] := by simp only [State.suspendNotices, h]

theorem State.suspendLine_notLive (h : s.live? l = none) : s.suspendLine l = s := by simp only [State.suspendLine, h]

/-- The line has been closed and its stoppage abandoned; its live state stands yet. -/
def State.suspendClosed (s : State) (l : Fin 8) : State := (s.closeLine l .suspend).abandon l

theorem State.suspendLine_onLine (h : s.onLine l ln lv) : s.suspendLine l = (s.suspendClosed l).discardLive l := by
  simp only [State.suspendLine, h.live?_eq, State.suspendClosed]

theorem State.suspendClosed_line? (h : s.onLine l ln lv) : ∃ lv', (s.suspendClosed l).line? l = some { ln with live := some lv' } :=
  ⟨_, (State.abandon_onLine (lv := _) ⟨State.closeLine_line? .suspend h, rfl⟩).1⟩

theorem State.suspendClosed_frame (s : State) (l : Fin 8) : s.suspendClosed l = { s.closeLine l .suspend with
    journal := (s.suspendClosed l).journal, attention := (s.suspendClosed l).attention } :=
  (s.closeLine l .suspend).abandon_frame l

/-- What discarding the live state changes. -/
theorem State.discardLive_eq (h : s.line? l = some ln) : s.discardLive l = { s.setLine l (some { ln with live := none }) with
    stations := s.stations.map fun r => if r.line = l then { r with accrualStart := none } else r
    periodCounter := s.periodCounter.set l (s.periodCounter[l] - 1#32) } := by
  rw [State.discardLive, State.updLine_some h]
  rfl

theorem State.closeLine_agrees (why : CloseReason) (h : s.onLine l ln lv) :
    (s.closeLine l why).Agrees ((s.notify (some l) (.periodClosed lv.period.number why (displacedBy s.store[l]))).latch .period) := by
  obtain ⟨hjournal, hattention⟩ := State.closeLine_announced why h
  have hframe := (s.closeLine_touch why l).frame
  exact ⟨hjournal, hattention, hframe.runClock.trans (State.notify_runClock ..).symm, hframe.plant.trans (State.notify_plant ..).symm⟩

/-- What a line's turn queues. -/
theorem State.suspendLine_announced (s : State) (l : Fin 8) : (s.suspendLine l).Agrees (s.announced (s.suspendNotices l)) := by
  cases hlive : s.live? l with
  | none =>
    rw [State.suspendLine_notLive hlive, State.suspendNotices_notLive hlive]
    exact .refl s
  | some lv =>
    obtain ⟨ln, h⟩ := State.onLine_of_live? hlive
    obtain ⟨_, hclosed⟩ := State.suspendClosed_line? h
    rw [State.suspendLine_onLine h, State.discardLive_eq hclosed]
    refine .trans (t := s.suspendClosed l) ⟨rfl, rfl, rfl, rfl⟩ ?_
    have hclose := State.closeLine_agrees .suspend h
    rw [State.suspendClosed, State.closeReset_abandon h]
    cases hst : lv.condition.stoppage? with
    | none =>
      rw [State.suspendNotices_close h hst]
      exact hclose
    | some st =>
      rw [State.suspendNotices_stoppage h hst]
      refine (hclose.notify (some l) (st.closedNotice s.runClock .abandoned)).trans ?_
      rw [State.latch_notify]
      exact .refl _

theorem State.suspendLine_stations (s : State) (l : Fin 8) : (s.suspendLine l).stations = s.stations.map fun r =>
    if r.line = l ∧ (s.live? r.line).isSome then { r with accrualStart := none } else r := by
  cases hlive : s.live? l with
  | none =>
    rw [State.suspendLine_notLive hlive]
    refine (List.map_id' _).symm.trans (List.map_congr_left fun r _ => (if_neg fun ⟨hline, hsome⟩ => ?_).symm)
    rw [hline, hlive] at hsome
    cases hsome
  | some lv =>
    obtain ⟨ln, h⟩ := State.onLine_of_live? hlive
    obtain ⟨_, hclosed⟩ := State.suspendClosed_line? h
    have hstations : (s.suspendClosed l).stations = (s.closeLine l .suspend).stations := by rw [State.suspendClosed_frame]
    rw [State.suspendLine_onLine h, State.discardLive_eq hclosed]
    show (s.suspendClosed l).stations.map _ = _
    rw [hstations, State.closeLine_stations .suspend h, List.map_map]
    refine List.map_congr_left fun r _ => ?_
    by_cases hr : r.line = l
    · simp [hr, hlive]
    · simp [hr]

theorem State.suspendLine_lastStoppage (s : State) (l : Fin 8) : (s.suspendLine l).lastStoppage = s.lastStoppage := by
  cases hlive : s.live? l with
  | none => rw [State.suspendLine_notLive hlive]
  | some lv =>
    obtain ⟨ln, h⟩ := State.onLine_of_live? hlive
    obtain ⟨_, hclosed⟩ := State.suspendClosed_line? h
    rw [State.suspendLine_onLine h, State.discardLive_eq hclosed, State.suspendClosed_frame]
    exact State.closeLine_lastStoppage .suspend h

/-- What SUSPEND does to a line's definition, store and counter. -/
theorem State.suspendLine_own (h : s.onLine l ln lv) : (s.suspendLine l).line? l = some { ln with live := none }
    ∧ (s.suspendLine l).store[l] = placeIn s.store[l] (s.closingRecord l lv .suspend)
    ∧ (s.periodCounter[l].toNat < 4294967295 → (s.suspendLine l).periodCounter[l] = s.periodCounter[l]) := by
  obtain ⟨_, hclosed⟩ := State.suspendClosed_line? h
  have hcounter : (s.suspendClosed l).periodCounter = (s.closeLine l .suspend).periodCounter := by rw [State.suspendClosed_frame]
  rw [State.suspendLine_onLine h, State.discardLive_eq hclosed]
  refine ⟨State.line?_setLine_same (s.suspendClosed l) l _, ?_, fun hbelow => ?_⟩
  · show (s.suspendClosed l).store[l] = _
    rw [State.suspendClosed_frame]
    exact State.closeLine_store_same .suspend h
  · refine (Vector.getElem_set_self _).trans ?_
    rw [hcounter, State.closeLine_periodCounter .suspend h, State.nextNumber_below .suspend lv hbelow]
    exact BitVec.add_sub_cancel _ _

end

/-! ## All lines leave -/

/-- What SUSPEND's acts on the lines may touch. -/
def Scope.leaving : Scope := { line := fun _ => True, link := fun _ => False, trigger := fun _ => False, part := True }

/-- What one line's turn may touch. -/
def Scope.leavingLine (l : Fin 8) : Scope := { line := (· = l), link := fun _ => False, trigger := fun _ => False, part := True }

section
variable {s : State} {l : Fin 8} {ln : Line} {lv : Live}

theorem State.suspendLine_touch (s : State) (l : Fin 8) : Touch (.leavingLine l) s (s.suspendLine l) := .suspendLine rfl trivial

/-- What a line's turn reads and writes. -/
def State.ofLine (s : State) (l : Fin 8) : Option Line × List ClosedRecord × BitVec 32 × List Station :=
  (s.line? l, s.store[l], s.periodCounter[l], lineStations s.stations l)

theorem State.suspendLine_other (s : State) {l l' : Fin 8} (h : l' ≠ l) : (s.suspendLine l').ofLine l = s.ofLine l := by
  have hout : ¬(Scope.leavingLine l').line l := fun e => h e.symm
  obtain ⟨hline, hstore, _, hcounter⟩ := (s.suspendLine_touch l').otherLine l hout
  rw [State.ofLine, hline, hstore, hcounter, (s.suspendLine_touch l').lineStations hout]
  rfl

theorem State.linesSuspended_leaving (s : State) : Touch .leaving s s.linesSuspended :=
  .foldlState (fun _ _ => .suspendLine trivial trivial) _ _

theorem State.linesSuspended_turn (s : State) (l : Fin 8) : ∃ u, Touch .leaving s u ∧ u.ofLine l = s.ofLine l
    ∧ s.linesSuspended.ofLine l = (u.suspendLine l).ofLine l :=
  foldl_turn (P := fun u => u.ofLine l) .refl .trans (fun _ _ => .suspendLine trivial trivial) (fun u _ => u.suspendLine_other)
    allLines_nodup (mem_allLines l) s

theorem State.ofLine_inj {s t : State} (h : s.ofLine l = t.ofLine l) : s.line? l = t.line? l ∧ s.store[l] = t.store[l]
    ∧ s.periodCounter[l] = t.periodCounter[l] ∧ lineStations s.stations l = lineStations t.stations l := by
  simpa only [State.ofLine, Prod.mk.injEq] using h

theorem State.closingRecord_congr {s t : State} (hclock : s.runClock = t.runClock) (hplant : s.plant = t.plant)
    (hstations : lineStations s.stations l = lineStations t.stations l) (lv : Live) (why : CloseReason) :
    s.closingRecord l lv why = t.closingRecord l lv why := by
  rw [State.closingRecord, State.closingRecord, hclock, hstations, State.plantTime_congr hclock hplant]

theorem State.linesSuspended_live (h : s.onLine l ln lv) : s.linesSuspended.line? l = some { ln with live := none }
    ∧ s.linesSuspended.store[l] = placeIn s.store[l] (s.closingRecord l lv .suspend)
    ∧ (s.periodCounter[l].toNat < 4294967295 → s.linesSuspended.periodCounter[l] = s.periodCounter[l]) := by
  obtain ⟨u, htouch, hsame, hturn⟩ := s.linesSuspended_turn l
  obtain ⟨hline, hstore, hcounter, hstations⟩ := State.ofLine_inj hsame
  obtain ⟨hline', hstore', hcounter', _⟩ := State.ofLine_inj hturn
  have hrecord := State.closingRecord_congr htouch.frame.runClock htouch.frame.plant hstations lv .suspend
  have hon : u.onLine l ln lv := ⟨hline.trans h.1, h.2⟩
  rw [hline', hstore', hcounter', ← hstore, ← hcounter, ← hrecord]
  exact State.suspendLine_own hon

theorem State.linesSuspended_undefined (h : s.line? l = none) : s.linesSuspended.line? l = none
    ∧ s.linesSuspended.store[l] = s.store[l] ∧ s.linesSuspended.periodCounter[l] = s.periodCounter[l] := by
  obtain ⟨u, _, hsame, hturn⟩ := s.linesSuspended_turn l
  obtain ⟨hline, hstore, hcounter, _⟩ := State.ofLine_inj hsame
  rw [State.suspendLine_notLive (State.live?_undefined (hline.trans h))] at hturn
  obtain ⟨hline', hstore', hcounter', _⟩ := State.ofLine_inj hturn
  exact ⟨hline'.trans (hline.trans h), hstore'.trans hstore, hcounter'.trans hcounter⟩

theorem State.suspendNotices_other (s : State) {l l' : Fin 8} (h : l' ≠ l) : (s.suspendLine l').suspendNotices l = s.suspendNotices l := by
  obtain ⟨hline, hstore, _⟩ := State.ofLine_inj (s.suspendLine_other h)
  have hclock : (s.suspendLine l').runClock = s.runClock := (s.suspendLine_touch l').frame.runClock
  simp only [State.suspendNotices, State.live?, hline, hstore, hclock]

/-- The notices of the lines, in their order. -/
theorem foldl_suspendLine_announced (ls : List (Fin 8)) (hls : ls.Nodup) (s : State) :
    (ls.foldl State.suspendLine s).Agrees (s.announced (ls.flatMap s.suspendNotices)) := by
  induction ls generalizing s with
  | nil => exact .refl s
  | cons l ls ih =>
    obtain ⟨hl, hls⟩ := List.nodup_cons.mp hls
    have hrest : ls.flatMap (s.suspendLine l).suspendNotices = ls.flatMap s.suspendNotices := by
      rw [List.flatMap_def, List.flatMap_def]
      exact congrArg List.flatten (List.map_congr_left fun l' hl' => s.suspendNotices_other fun e => hl (e ▸ hl'))
    have hafter := ih hls (s.suspendLine l)
    rw [hrest] at hafter
    refine hafter.trans (((s.suspendLine_announced l).announced _).trans ?_)
    rw [State.announced_append]
    exact .refl _

theorem foldl_suspendLine_stations (ls : List (Fin 8)) (s : State) : (ls.foldl State.suspendLine s).stations = s.stations.map fun r =>
    if r.line ∈ ls ∧ (s.live? r.line).isSome then { r with accrualStart := none } else r := by
  induction ls generalizing s with
  | nil => simp
  | cons l ls ih =>
    rw [List.foldl_cons, ih, State.suspendLine_stations, List.map_map]
    refine List.map_congr_left fun r _ => ?_
    by_cases hr : r.line = l
    · have hgone : (s.suspendLine l).live? l = none := s.suspendLine_live?_same l
      by_cases hlive : (s.live? l).isSome
      · simp [hr, hlive, hgone]
      · simp [hr, hlive, hgone]
    · have hsame : (s.suspendLine l).live? r.line = s.live? r.line := s.suspendLine_live?_other hr
      simp [hr, hsame]

end

/-! ## SUSPEND -/

section
variable {s : State}

theorem State.linesSuspended_stations (s : State) : s.linesSuspended.stations = s.stations.map fun r =>
    if (s.live? r.line).isSome then { r with accrualStart := none } else r := by
  rw [State.linesSuspended, foldl_suspendLine_stations]
  exact List.map_congr_left fun r _ => by simp [mem_allLines]

theorem State.linesSuspended_lastStoppage (s : State) : s.linesSuspended.lastStoppage = s.lastStoppage :=
  foldl_leaves (P := State.lastStoppage) (fun u l _ => u.suspendLine_lastStoppage l) s

theorem State.linesSuspended_announced (s : State) : s.linesSuspended.Agrees (s.announced (allLines.flatMap s.suspendNotices)) :=
  foldl_suspendLine_announced allLines allLines_nodup s

/-- What a state holds that only some of its fields tell from another. -/
theorem State.eq_of_leaving {s t : State} (h : Touch .leaving s t) (hstoppage : t.lastStoppage = s.lastStoppage) : t = { s with
    lines := t.lines, periodCounter := t.periodCounter, freeDraws := t.freeDraws, store := t.store, journal := t.journal
    attention := t.attention, stations := t.stations } := by
  have hframe := h.frame
  have hlinks := h.links_same fun _ => id
  have htriggers := h.triggers_same fun _ => id
  obtain ⟨hpending, hreset, hpart, hhost, hclock, hplant, hsnapshot, hcauses, _, _⟩ := hframe
  cases s
  cases t
  simp only at hstoppage hlinks htriggers hpending hreset hpart hhost hclock hplant hsnapshot hcauses
  subst hstoppage hlinks htriggers hpending hreset hpart hhost hclock hplant hsnapshot hcauses
  rfl

theorem State.suspendAll_frame (hs : s.partSound) (hm : s.partState = .monitoring) : s.suspendAll = { s with
    partState := .configuring, lines := s.suspendAll.lines, periodCounter := s.suspendAll.periodCounter, links := s.suspendAll.links
    freeDraws := s.suspendAll.freeDraws, store := s.suspendAll.store, journal := s.suspendAll.journal
    attention := s.suspendAll.attention
    stations := s.stations.map fun r => if (s.line? r.line).isSome then { r with accrualStart := none } else r } := by
  have hstations : s.linesSuspended.stations = s.stations.map fun r =>
      if (s.line? r.line).isSome then { r with accrualStart := none } else r := by
    rw [State.linesSuspended_stations]
    refine List.map_congr_left fun r _ => ?_
    rw [hs.live_isSome hm]
  rw [State.suspendAll_eq, ← hstations]
  exact congrArg (fun u : State => { u with links := s.linesSuspended.links.map Link.suspended, partState := .configuring })
    (State.eq_of_leaving s.linesSuspended_leaving s.linesSuspended_lastStoppage)

theorem State.suspendAll_link (s : State) (k : Fin 4) : s.suspendAll.link k = (s.link k).suspended := by
  have hlinks : s.linesSuspended.links = s.links := s.linesSuspended_leaving.links_same fun _ => id
  rw [State.suspendAll_eq, State.link, State.link, ← hlinks]
  exact Vector.getElem_map ..

theorem State.suspendAll_line? (s : State) (l : Fin 8) : s.suspendAll.line? l = s.linesSuspended.line? l := by
  rw [State.line?, State.line?, State.suspendAll_eq]

theorem State.suspendAll_store (s : State) : s.suspendAll.store = s.linesSuspended.store := by rw [State.suspendAll_eq]

theorem State.suspendAll_periodCounter (s : State) : s.suspendAll.periodCounter = s.linesSuspended.periodCounter := by
  rw [State.suspendAll_eq]

theorem State.suspendAll_announced (s : State) : s.suspendAll.Agrees (s.announced (allLines.flatMap s.suspendNotices)) := by
  rw [State.suspendAll_eq]
  have h := s.linesSuspended_announced
  generalize s.linesSuspended = u at h
  exact ⟨h.journal, h.attention, h.runClock, h.plant⟩

/-- The record that the close of a line displaced. -/
theorem State.suspendAll_newestDisplaced {l : Fin 8} {ln : Line} {lv : Live} (h : s.onLine l ln lv) :
    s.suspendAll.newestDisplaced l = displacedBy s.store[l] := by
  obtain ⟨_, hstore, _⟩ := State.linesSuspended_live h
  rw [State.newestDisplaced, State.suspendAll_store, hstore, placeIn_getLast? rfl]
  rfl

/-- What the notices of a line's turn say, in the terms of its close. -/
theorem State.suspendNotices_journal {l : Fin 8} {ln : Line} {lv : Live} (h : s.onLine l ln lv) :
    (s.announced (s.suspendNotices l)).journal = (match lv.condition.stoppage? with
      | some st => ((s.closeLine l .suspend).notify (some l) (st.closedNotice s.runClock .abandoned)).journal
      | none => (s.closeLine l .suspend).journal) := by
  obtain ⟨_, hclosed⟩ := State.suspendClosed_line? h
  have hown := (s.suspendLine_announced l).journal
  rw [State.suspendLine_onLine h, State.discardLive_eq hclosed] at hown
  refine hown.symm.trans ((congrArg State.journal (State.closeReset_abandon h .suspend)).trans ?_)
  cases lv.condition.stoppage? with
  | _ => rfl

theorem suspendReq_configuring (h : s.partState = .configuring) : suspendReq [] s = (s, .refuse .wrongState) := by simp only [suspendReq, h]

theorem suspendReq_ok (hs : s.partSound) (h : s.partState = .monitoring) : suspendReq [] s =
    (s.suspendAll, .ok (enc1 (allLines.countP fun l => (s.line? l).isSome)
      ++ (allLines.filter fun l => (s.line? l).isSome).flatMap fun l =>
        enc1 l.val ++ encTick (s.openNumber l) ++ encOpt 4 encTick (displacedBy s.store[l]))) := by
  have hpayload : suspendPayload s s.suspendAll = _ := encList_definedLines s _
    (fun l => enc1 l.val ++ encTick (s.openNumber l) ++ encOpt 4 encTick (displacedBy s.store[l])) fun l hl => by
      have hlive : (s.live? l).isSome := (hs.live_isSome h l).trans (State.mem_definedLines.mp hl)
      obtain ⟨lv, hlv⟩ := Option.isSome_iff_exists.mp hlive
      obtain ⟨ln, hon⟩ := State.onLine_of_live? hlv
      rw [State.suspendAll_newestDisplaced hon]
  simp only [suspendReq, h, hpayload]

theorem State.suspendNotices_nonempty {l : Fin 8} (s : State) (hs : s.partSound) (hm : s.partState = .monitoring) (hl : (s.line? l).isSome) :
    allLines.flatMap s.suspendNotices ≠ [] := fun hempty => by
  have hnone : s.suspendNotices l = [] := List.flatMap_eq_nil_iff.mp hempty l (mem_allLines l)
  obtain ⟨lv, hlv⟩ := Option.isSome_iff_exists.mp ((hs.live_isSome hm l).trans hl)
  simp only [State.suspendNotices, hlv] at hnone
  cases hnone

/-- Where no other line is defined, the notices are those of the one line. -/
theorem flatMap_suspendNotices_only {l : Fin 8} (h : ∀ l', l' ≠ l → s.line? l' = none) :
    allLines.flatMap s.suspendNotices = s.suspendNotices l := by
  have hrest : ∀ l', l' ≠ l → s.suspendNotices l' = [] := fun l' hl' =>
    State.suspendNotices_notLive (State.live?_undefined (h l' hl'))
  obtain ⟨before, after, hsplit⟩ := List.append_of_mem (mem_allLines l)
  have hnodup := allLines_nodup
  rw [hsplit] at hnodup
  obtain ⟨_, hafter, hapart⟩ := List.nodup_append.mp hnodup
  obtain ⟨hl, _⟩ := List.nodup_cons.mp hafter
  have hbefore : before.flatMap s.suspendNotices = [] :=
    List.flatMap_eq_nil_iff.mpr fun l' hl' => hrest l' (hapart l' hl' l List.mem_cons_self)
  have hlater : after.flatMap s.suspendNotices = [] :=
    List.flatMap_eq_nil_iff.mpr fun l' hl' => hrest l' fun e => hl (e ▸ hl')
  rw [hsplit, List.flatMap_append, List.flatMap_cons, hbefore, hlater, List.nil_append, List.append_nil]

end

/-- Settles O51: each line by its own turn, the notices of the turns one after another. -/
theorem suspendClosesEveryLine : Obligations.SuspendClosesEveryLine := by
  intro s hready
  have hexec : ∀ {t : State} {reply : Reply}, suspendReq [] s = (t, reply) → exec (.suspend []) s = .next (t.respond 0x16#8 reply) :=
    fun h => exec_of_requestBlock (i := .suspend []) rfl hready (List.mem_singleton_self _) h
  refine ⟨fun hc => hexec (suspendReq_configuring hc), fun hm hs => ⟨s.suspendAll, s.openNumber, fun l => displacedBy s.store[l],
    (hexec (suspendReq_ok hs hm)).trans ?_, State.suspendAll_frame hs hm, s.suspendAll_link, fun l hnone => ?_,
    fun l ln lv h => ?_, fun u hu => ?_⟩⟩
  · have hspelled : ∀ o : Option (BitVec 32), encOpt 4 encTick o = (match o with
        | some d => [1#8] ++ encTick d
        | none => [0#8, 0#8, 0#8, 0#8, 0#8]) := fun o => by
      cases o with
      | _ => rfl
    exact congrArg (fun f : Fin 8 → List Byte => Host.Outcome.next (s.suspendAll.respond 0x16#8
      (.ok (enc1 (allLines.countP fun l => (s.line? l).isSome) ++ (allLines.filter fun l => (s.line? l).isSome).flatMap f))))
      (funext fun l => congrArg (enc1 l.val ++ encTick (s.openNumber l) ++ ·) (hspelled _))
  · rw [State.suspendAll_line?, State.suspendAll_store, State.suspendAll_periodCounter]
    exact State.linesSuspended_undefined hnone
  · obtain ⟨hline, hstore, hcounter⟩ := State.linesSuspended_live h
    rw [State.suspendAll_line?, State.suspendAll_store, State.suspendAll_periodCounter]
    refine ⟨State.openNumber_onLine h, hline, hstore.trans (State.closeLine_store_same .suspend h).symm, displacedBy_room,
      fun oldest rest heq hrest => displacedBy_full heq hrest, hcounter, fun honly => ?_⟩
    rw [s.suspendAll_announced.journal, flatMap_suspendNotices_only honly]
    exact State.suspendNotices_journal h
  · have hannounced := s.suspendAll_announced
    have hus : u = s.told (allLines.flatMap s.suspendNotices) := hu
    rw [hus]
    refine ⟨hannounced.journal.trans (State.announced_journal s _), fun ⟨l, hl⟩ => ?_, fun hnone => ?_⟩
    · rw [hannounced.attention, State.announced_latched (s.suspendNotices_nonempty hs hm hl)]
    · have hempty : allLines.flatMap s.suspendNotices = [] :=
        List.flatMap_eq_nil_iff.mpr fun l _ => State.suspendNotices_notLive (State.live?_undefined (hnone l))
      rw [hannounced.attention, hempty]
      rfl

end Sys2Proof.Machine
end

section
/-! What each command leaves: the settings of the part, aspect by aspect, and which commands change which. -/

namespace Sys2Proof.Machine

/-! ## The aspects -/

/-- What is changed by its own commands alone. -/
inductive Aspect where
  | resetPhase | runClock | plant | partState | snapshot | causeMap | mask | watermark | modes | flags | notice | noticeFirst
  | links | config | lines | triggers

/-- Two links have the same settings. -/
def Link.SameSettings (L M : Link) : Prop :=
  M.bitRate = L.bitRate ∧ M.polarityMode = L.polarityMode ∧ M.pace = L.pace ∧ M.missThreshold = L.missThreshold
    ∧ M.returnThreshold = L.returnThreshold

/-- An aspect is kept. -/
def Aspect.kept : Aspect → State → State → Prop
  | .resetPhase, s, t => t.resetPhase = s.resetPhase
  | .runClock, s, t => t.runClock = s.runClock
  | .plant, s, t => t.plant = s.plant
  | .partState, s, t => t.partState = s.partState
  | .snapshot, s, t => t.snapshot = s.snapshot
  | .causeMap, s, t => t.causeMap = s.causeMap
  | .mask, s, t => t.journal.mask = s.journal.mask
  | .watermark, s, t => t.journal.watermark = s.journal.watermark
  | .modes, s, t => t.attention.enables = s.attention.enables ∧ t.attention.mode = s.attention.mode
  | .flags, s, t => ∀ f, f ≠ .notice → s.attention.flags.get f = true → t.attention.flags.get f = true
  | .notice, s, t => s.attention.flags.notice = true → t.attention.flags.notice = true
  | .noticeFirst, s, t => s.attention.mode = .first →
      t.attention.mode = .first ∧ (s.attention.flags.notice = true → t.attention.flags.notice = true)
  | .links, s, t => ∀ k, (s.link k).SameSettings (t.link k)
  | .config, s, t => t.stations.map Station.config = s.stations.map Station.config
  | .lines, s, t => ∀ l, (t.line? l).map (·.defn) = (s.line? l).map (·.defn)
  | .triggers, s, t => t.triggers = s.triggers

theorem Aspect.kept_refl (a : Aspect) (s : State) : a.kept s s := by
  cases a with
  | modes => exact ⟨rfl, rfl⟩
  | flags => exact fun _ _ h => h
  | notice => exact fun h => h
  | noticeFirst => exact fun h => ⟨h, fun h => h⟩
  | links => exact fun _ => ⟨rfl, rfl, rfl, rfl, rfl⟩
  | lines => exact fun _ => rfl
  | _ => exact rfl

theorem Aspect.kept_trans (a : Aspect) {s t u : State} (h : a.kept s t) (h' : a.kept t u) : a.kept s u := by
  cases a with
  | modes => exact ⟨h'.1.trans h.1, h'.2.trans h.2⟩
  | flags => exact fun f hf hs => h' f hf (h f hf hs)
  | notice => exact fun hs => h' (h hs)
  | noticeFirst => exact fun hs => ⟨(h' (h hs).1).1, fun hn => (h' (h hs).1).2 ((h hs).2 hn)⟩
  | links =>
    intro k
    obtain ⟨hrate, hmode, hpace, hmiss, hreturn⟩ := h k
    obtain ⟨hrate', hmode', hpace', hmiss', hreturn'⟩ := h' k
    exact ⟨hrate'.trans hrate, hmode'.trans hmode, hpace'.trans hpace, hmiss'.trans hmiss, hreturn'.trans hreturn⟩
  | lines => exact fun l => (h' l).trans (h l)
  | _ => exact Eq.trans h' h

/-- Every aspect but those of a list is kept. -/
def State.KeepsBut (s : State) (changed : List Aspect) (t : State) : Prop := ∀ a, a ∉ changed → a.kept s t

section
variable {s t u : State} {changed : List Aspect}

theorem State.KeepsBut.refl (s : State) (changed : List Aspect) : s.KeepsBut changed s := fun a _ => a.kept_refl s

theorem State.KeepsBut.trans (h : s.KeepsBut changed u) (h' : u.KeepsBut changed t) : s.KeepsBut changed t :=
  fun a ha => a.kept_trans (h a ha) (h' a ha)

theorem State.KeepsBut.mono {more : List Aspect} (h : s.KeepsBut changed t) (hmore : ∀ a ∈ changed, a ∈ more) : s.KeepsBut more t :=
  fun a ha => h a fun hchanged => ha (hmore a hchanged)

end

/-! ## One field changed -/

section
variable (s : State)

/-- A change of one field changes no aspect but its own. -/
theorem State.KeepsBut.ofResetPhase (x : ResetPhase) : s.KeepsBut [.resetPhase] { s with resetPhase := x } := fun a ha => by
  have hself := a.kept_refl s
  cases a with
  | resetPhase => exact absurd (List.mem_singleton_self _) ha
  | _ => exact hself

theorem State.KeepsBut.ofRunClock (x : Tick) : s.KeepsBut [.runClock] { s with runClock := x } := fun a ha => by
  have hself := a.kept_refl s
  cases a with
  | runClock => exact absurd (List.mem_singleton_self _) ha
  | _ => exact hself

theorem State.KeepsBut.ofPlant (x : Option PlantClock) : s.KeepsBut [.plant] { s with plant := x } := fun a ha => by
  have hself := a.kept_refl s
  cases a with
  | plant => exact absurd (List.mem_singleton_self _) ha
  | _ => exact hself

theorem State.KeepsBut.ofPartState (x : PartState) : s.KeepsBut [.partState] { s with partState := x } := fun a ha => by
  have hself := a.kept_refl s
  cases a with
  | partState => exact absurd (List.mem_singleton_self _) ha
  | _ => exact hself

theorem State.KeepsBut.ofSnapshot (x : Option ClosedRecord) : s.KeepsBut [.snapshot] { s with snapshot := x } := fun a ha => by
  have hself := a.kept_refl s
  cases a with
  | snapshot => exact absurd (List.mem_singleton_self _) ha
  | _ => exact hself

theorem State.KeepsBut.ofCauseMap (x : List CauseEntry) : s.KeepsBut [.causeMap] { s with causeMap := x } := fun a ha => by
  have hself := a.kept_refl s
  cases a with
  | causeMap => exact absurd (List.mem_singleton_self _) ha
  | _ => exact hself

theorem State.KeepsBut.ofMask (x : BitVec 16) : s.KeepsBut [.mask] { s with journal := { s.journal with mask := x } } := fun a ha => by
  have hself := a.kept_refl s
  cases a with
  | mask => exact absurd (List.mem_singleton_self _) ha
  | _ => exact hself

theorem State.KeepsBut.ofWatermark (x : Nat) : s.KeepsBut [.watermark] { s with journal := { s.journal with watermark := x } } :=
  fun a ha => by
    have hself := a.kept_refl s
    cases a with
    | watermark => exact absurd (List.mem_singleton_self _) ha
    | _ => exact hself

theorem State.KeepsBut.ofStations (x : List Station) : s.KeepsBut [.config] { s with stations := x } := fun a ha => by
  have hself := a.kept_refl s
  cases a with
  | config => exact absurd (List.mem_singleton_self _) ha
  | _ => exact hself

theorem State.KeepsBut.ofLines (x : Vector (Option Line) 8) : s.KeepsBut [.lines] { s with lines := x } := fun a ha => by
  have hself := a.kept_refl s
  cases a with
  | lines => exact absurd (List.mem_singleton_self _) ha
  | _ => exact hself

theorem State.KeepsBut.ofTriggers (x : Vector Trigger 8) : s.KeepsBut [.triggers] { s with triggers := x } := fun a ha => by
  have hself := a.kept_refl s
  cases a with
  | triggers => exact absurd (List.mem_singleton_self _) ha
  | _ => exact hself

theorem State.KeepsBut.ofLinks (x : Vector Link 4) : s.KeepsBut [.links] { s with links := x } := fun a ha => by
  have hself := a.kept_refl s
  cases a with
  | links => exact absurd (List.mem_singleton_self _) ha
  | _ => exact hself

/-- The Period Store and the host link are no aspect. -/
theorem State.KeepsBut.ofStore (x : Vector (List ClosedRecord) 8) : s.KeepsBut [] { s with store := x } := fun a _ => by
  have hself := a.kept_refl s
  cases a with
  | _ => exact hself

theorem State.KeepsBut.ofHost (x : HostLink) (changed : List Aspect) : s.KeepsBut changed { s with host := x } := fun a _ => by
  have hself := a.kept_refl s
  cases a with
  | _ => exact hself

/-- A change of links that keeps their settings changes no aspect. -/
theorem State.KeepsBut.ofSameLinks {x : Vector Link 4} (h : ∀ k : Fin 4, (s.link k).SameSettings x[k]) :
    s.KeepsBut [] { s with links := x } := fun a _ => by
  have hself := a.kept_refl s
  cases a with
  | links => exact h
  | _ => exact hself

/-- A change of stations that keeps their configuration changes no aspect. -/
theorem State.KeepsBut.ofSameStations {x : List Station} (h : x.map Station.config = s.stations.map Station.config) :
    s.KeepsBut [] { s with stations := x } := fun a _ => by
  have hself := a.kept_refl s
  cases a with
  | config => exact h
  | _ => exact hself

end

/-! ## The changes of Laws/Touch.lean -/

section
variable {sc : Scope} {s t : State}

theorem Touch.linkSettings (h : Touch sc s t) (k : Fin 4) : (s.link k).SameSettings (t.link k) := by
  induction h with
  | trans _ _ ih1 ih2 =>
    obtain ⟨hrate, hmode, hpace, hmiss, hreturn⟩ := ih1
    obtain ⟨hrate', hmode', hpace', hmiss', hreturn'⟩ := ih2
    exact ⟨hrate'.trans hrate, hmode'.trans hmode, hpace'.trans hpace, hmiss'.trans hmiss, hreturn'.trans hreturn⟩
  | note s o n =>
    rw [State.notify_link]
    exact ⟨rfl, rfl, rfl, rfl, rfl⟩
  | link s k' L _ hfollows =>
    by_cases hk : k = k'
    · subst hk
      obtain ⟨hrate, hmode, hpace, hmiss, hreturn, _⟩ := hfollows
      have hput : (s.putLink k L).link k = L := State.putLink_link s k L
      rw [State.putLink] at hput
      rw [hput]
      exact ⟨hrate, hmode, hpace, hmiss, hreturn⟩
    · have hput : (s.putLink k' L).link k = s.link k := State.putLink_other hk L
      rw [State.putLink] at hput
      rw [hput]
      exact ⟨rfl, rfl, rfl, rfl, rfl⟩
  | _ => exact ⟨rfl, rfl, rfl, rfl, rfl⟩

/-- The blocks and events of Laws/Touch.lean change no aspect but the triggers. -/
theorem Touch.keepsButTriggers (h : Touch sc s t) : s.KeepsBut [.triggers] t := fun a ha => by
  obtain ⟨_, hreset, hpart, _, hclock, hplant, hsnapshot, hcauses, hmask, hwatermark⟩ := h.frame
  cases a with
  | triggers => exact absurd (List.mem_singleton_self _) ha
  | resetPhase => exact hreset
  | runClock => exact hclock
  | plant => exact hplant
  | partState => exact hpart
  | snapshot => exact hsnapshot
  | causeMap => exact hcauses
  | mask => exact hmask
  | watermark => exact hwatermark
  | modes => exact h.attention
  | flags => exact fun f _ => h.latched f
  | notice => exact h.latched .notice
  | noticeFirst => exact fun hfirst => ⟨h.attention.2.trans hfirst, h.latched .notice⟩
  | links => exact h.linkSettings
  | config => exact h.config
  | lines => exact h.line_defn

/-- Where triggers are out of scope, no aspect changes. -/
theorem Touch.keepsAll (h : Touch sc s t) (htriggers : ∀ k, ¬sc.trigger k) (changed : List Aspect) : s.KeepsBut changed t := fun a _ => by
  have hself := a.kept_refl s
  cases a with
  | triggers => exact h.triggers_same htriggers
  | _ => exact h.keepsButTriggers _ (by simp)

end

/-! ## The blocks of the requests -/

section
variable (p : List Byte) (s : State)

theorem defineLine_keeps : s.KeepsBut [.lines] (defineLine p s).1 := by
  unfold defineLine
  repeat' split
  all_goals exact .ofLines s _

theorem undefineLine_keeps : s.KeepsBut [.lines] (undefineLine p s).1 := by
  unfold undefineLine
  repeat' split
  all_goals exact .ofLines s _

theorem setRate_keeps : s.KeepsBut [.lines] (setRate p s).1 := by
  unfold setRate
  dsimp only
  repeat' split
  all_goals exact .ofLines s _

theorem enrollStation_keeps : s.KeepsBut [.config] (enrollStation p s).1 := by
  unfold enrollStation
  dsimp only
  repeat' split
  all_goals exact .ofStations s _

theorem removeStation_keeps : s.KeepsBut [.config] (removeStation p s).1 := by
  unfold removeStation
  dsimp only
  repeat' split
  all_goals exact .ofStations s _

theorem bypassStation_keeps : s.KeepsBut [.config] (bypassStation p s).1 := by
  have hoffer : ∀ (n l) (f : Station → Station), s.KeepsBut [.config] ((s.updStation n f).offerBypass l) := fun n l f =>
    .trans (.ofStations s _) (Touch.keepsAll (sc := .allLines) (.offerBypass trivial) (fun _ => id) _)
  unfold bypassStation
  dsimp only
  split
  · exact .refl s _
  · split
    · exact .refl s _
    · split
      · exact .refl s _
      · split
        · exact .refl s _
        · exact hoffer _ _ _

theorem mapCause_keeps : s.KeepsBut [.causeMap] (mapCause p s).1 := by
  unfold mapCause
  repeat' split
  all_goals exact .ofCauseMap s _

theorem unmapCause_keeps : s.KeepsBut [.causeMap] (unmapCause p s).1 := by
  unfold unmapCause
  repeat' split
  all_goals exact .ofCauseMap s _

theorem readOpen_keeps : s.KeepsBut [.snapshot] (readOpen p s).1 := by
  unfold readOpen
  dsimp only
  repeat' split
  all_goals exact .ofSnapshot s _

theorem armTrigger_keeps : s.KeepsBut [.triggers] (armTrigger p s).1 := by
  unfold armTrigger
  repeat' split
  all_goals exact .ofTriggers s _

theorem disarmTrigger_keeps : s.KeepsBut [.triggers] (disarmTrigger p s).1 := by
  unfold disarmTrigger
  split
  all_goals exact .ofTriggers s _

theorem setLink_keeps : s.KeepsBut [.links] (setLink p s).1 := by
  unfold setLink
  repeat' split
  all_goals exact .ofLinks s _

theorem setNoticeMask_keeps : s.KeepsBut [.mask] (setNoticeMask p s).1 := by
  unfold setNoticeMask
  split
  all_goals exact .ofMask s _

theorem setWatermark_keeps : s.KeepsBut [.watermark] (setWatermark p s).1 := by
  unfold setWatermark
  split
  all_goals exact .ofWatermark s _

theorem releaseClosed_keeps : s.KeepsBut [] (releaseClosed p s).1 := by
  unfold releaseClosed
  dsimp only
  repeat' split
  all_goals exact .ofStore s _

/-- The read-only requests change nothing. -/
theorem readStation_state : (readStation p s).1 = s := by
  unfold readStation
  dsimp only
  repeat' split
  all_goals rfl

theorem readMap_state : (readMap p s).1 = s := by
  unfold readMap
  dsimp only
  split
  all_goals rfl

theorem readLineStatus_state : (readLineStatus p s).1 = s := by
  unfold readLineStatus
  repeat' split
  all_goals rfl

theorem listClosed_state : (listClosed p s).1 = s := by
  unfold listClosed
  repeat' split
  all_goals rfl

theorem readClosed_state : (readClosed p s).1 = s := by
  unfold readClosed
  dsimp only
  repeat' split
  all_goals rfl

/-! ## The blocks that act on lines -/

theorem declareLineMode_keeps : s.KeepsBut [] (declareLineMode p s).1 := by
  have hdeclare : ∀ l m, s.KeepsBut [] (s.declare l m) := fun l m =>
    Touch.keepsAll (sc := .allLines) (.declare trivial m) (fun _ => id) _
  unfold declareLineMode
  split
  · exact .refl s _
  · split
    · exact .refl s _
    · split
      · exact .refl s _
      · split
        · exact .refl s _
        · exact hdeclare _ _

theorem closePeriod_keeps : s.KeepsBut [] (closePeriod p s).1 := by
  have hclose : ∀ l, s.KeepsBut [] (s.closeLine l .request) := fun l =>
    Touch.keepsAll (sc := .allLines) (.closeLine trivial _) (fun _ => id) _
  unfold closePeriod
  split
  · exact .refl s _
  · split
    · exact .refl s _
    · split
      · exact .refl s _
      · split
        · exact .refl s _
        · exact hclose _

theorem setRehearse_keeps : s.KeepsBut [] (setRehearse p s).1 := by
  have hchange : ∀ l on, s.KeepsBut [] (s.changeRehearsal l on) := fun l on =>
    Touch.keepsAll (sc := .allLines) (.changeRehearsal trivial on) (fun _ => id) _
  unfold setRehearse
  split
  · exact .refl s _
  · split
    · split
      · exact .refl s _
      · split
        · exact .refl s _
        · exact hchange _ _
    all_goals exact .refl s _

theorem injectReport_keeps : s.KeepsBut [] (injectReport p s).1 := by
  unfold injectReport
  split
  · exact .refl s _
  · split
    · split
      · exact .refl s _
      · rename_i r hr
        have hholds : s.holds .allLines r := ⟨(State.station?_number hr).symm ▸ hr, trivial⟩
        split
        · dsimp only
          split
          · exact (Touch.miss hholds).keepsAll (fun _ => id) _
          · exact (Touch.goodReply hholds _).keepsAll (fun _ => id) _
        · exact .refl s _
    all_goals exact .refl s _

theorem lineResetReq_keeps : s.KeepsBut [] (lineResetReq p s).1 := by
  have hreset : ∀ l, s.KeepsBut [] ((s.closeLine l .lineReset).resetLine l) := fun l =>
    Touch.keepsAll (sc := .allLines) (.closeReset trivial _) (fun _ => id) _
  unfold lineResetReq
  split
  · exact .refl s _
  · split
    · exact .refl s _
    · split
      · exact .refl s _
      · exact hreset _

/-! ## Clocks and links -/

theorem movePlant_keeps (old : Nat) (c : PlantClock) : s.KeepsBut [.plant, .triggers] (s.movePlant old c).1 :=
  .trans ((State.KeepsBut.ofPlant s (some c)).mono (by simp))
    ((Touch.movePlant (sc := .running) (fun _ => trivial) (fun _ => trivial) old c).keepsButTriggers.mono (by simp))

theorem loadClock_keeps : s.KeepsBut [.plant, .triggers] (loadClock p s).1 := by
  unfold loadClock
  dsimp only
  split
  · exact (State.KeepsBut.ofPlant s _).mono (by simp)
  · exact movePlant_keeps s _ _

theorem stepClock_keeps : s.KeepsBut [.plant, .triggers] (stepClock p s).1 := by
  unfold stepClock
  dsimp only
  split
  · exact .refl s _
  · split
    · exact .refl s _
    · split
      · exact .refl s _
      · split
        · exact .refl s _
        · exact movePlant_keeps s _ _

theorem State.updLink_keeps (k : Fin 4) {f : Link → Link} (h : (s.link k).SameSettings (f (s.link k))) : s.KeepsBut [] (s.updLink k f) :=
  .ofSameLinks s fun j => by
    have hput : (s.putLink k (f (s.link k))).link j = if j = k then f (s.link k) else s.link j := by
      split
      · next hj => rw [hj, State.putLink_link]
      · next hj => exact State.putLink_other hj _
    show (s.link j).SameSettings ((s.putLink k (f (s.link k))).link j)
    rw [hput]
    split
    · next hj => rw [hj]; exact h
    · exact ⟨rfl, rfl, rfl, rfl, rfl⟩

theorem readLinkStats_keeps : s.KeepsBut [] (readLinkStats p s).1 := by
  unfold readLinkStats
  split
  · exact .refl s _
  · split
    · exact .refl s _
    · split
      · exact s.updLink_keeps _ (f := fun L => { L with stats := LinkStats.zero }) ⟨rfl, rfl, rfl, rfl, rfl⟩
      · exact .refl s _

/-! ## The Attention Unit and the Journal -/

/-- A hand-over of notices leaves every flag that is set but NOTICE, and in mode FIRST NOTICE too. -/
theorem State.take_keeps (n : Nat) : s.KeepsBut [.notice] (s.dropNotices n).queueGap := fun a ha => by
  have hframe := s.take_frame n
  have hsettings := s.take_settings n
  have hself := a.kept_refl s
  cases a with
  | notice => exact absurd (List.mem_singleton_self _) ha
  | mask =>
    rcases Nat.eq_zero_or_pos s.journal.gapCount with hgap | hgap
    · exact congrArg (·.journal.mask) (State.take_without_gap hgap)
    · exact congrArg (·.journal.mask) (State.take_with_gap hgap)
  | watermark =>
    rcases Nat.eq_zero_or_pos s.journal.gapCount with hgap | hgap
    · exact congrArg (·.journal.watermark) (State.take_without_gap hgap)
    · exact congrArg (·.journal.watermark) (State.take_with_gap hgap)
  | modes => exact hsettings
  | noticeFirst => exact fun hfirst => ⟨hsettings.2.trans hfirst, State.take_notice_first hfirst⟩
  | flags =>
    intro f hf hset
    have hother := s.take_other_flags n
    cases f with
    | notice => exact absurd rfl hf
    | high => exact (s.take_high n).trans (by rw [show s.attention.flags.high = true from hset]; rfl)
    | link => exact (congrArg AttentionSet.link hother).trans hset
    | stop => exact (congrArg AttentionSet.stop hother).trans hset
    | period => exact (congrArg AttentionSet.period hother).trans hset
    | clock => exact (congrArg AttentionSet.clock hother).trans hset
  | _ =>
    rw [hframe]
    exact hself

theorem takeNotices_keeps : s.KeepsBut [.notice] (takeNotices p s).1 := by
  unfold takeNotices
  dsimp only
  split
  · exact .refl s _
  · split
    · exact .refl s _
    · exact s.take_keeps _

theorem Attention.clear_modes (a : Attention) (f : AttentionSet) (empty : Bool) :
    (a.clear f empty).enables = a.enables ∧ (a.clear f empty).mode = a.mode := by
  unfold Attention.clear
  dsimp only
  split
  all_goals exact ⟨rfl, rfl⟩

theorem clearAttention_keeps : s.KeepsBut [.flags, .notice, .noticeFirst] (clearAttention p s).1 := by
  unfold clearAttention
  split
  · exact .refl s _
  · intro a ha
    have hself := a.kept_refl s
    cases a with
    | flags | notice | noticeFirst => exact absurd (by simp) ha
    | modes => exact s.attention.clear_modes _ _
    | _ => exact hself

theorem setAttention_keeps : s.KeepsBut [.modes, .notice, .noticeFirst] (setAttention p s).1 := by
  unfold setAttention
  split
  · exact .refl s _
  · split
    · exact .refl s _
    · intro a ha
      have hself := a.kept_refl s
      cases a with
      | modes | notice | noticeFirst => exact absurd (by simp) ha
      | flags =>
        intro f hf hset
        cases f with
        | notice => exact absurd rfl hf
        | _ => exact hset
      | _ => exact hself

/-! ## Part states -/

theorem State.entering_keeps : s.KeepsBut [.partState] s.entering := by
  refine .trans (u := { s with stations := s.stations.map (·.restarted s.runClock) }) ?_ (.ofPartState _ _)
  exact (State.KeepsBut.ofSameStations s (by rw [List.map_map]; rfl)).mono (by simp)

theorem commitReq_keeps : s.KeepsBut [.partState] (commitReq p s).1 := by
  have hentered : Touch { Scope.all with trigger := fun _ => False } s.entering s.enterMonitoring :=
    .trans (.foldlState (fun _ _ => .enterLine trivial trivial) _ _) (.foldlState (fun _ _ => .enterLink trivial) _ _)
  have hkeeps : s.KeepsBut [.partState] s.enterMonitoring := s.entering_keeps.trans (hentered.keepsAll (fun _ => id) _)
  unfold commitReq
  split
  · exact .refl s _
  · split
    · exact .refl s _
    · dsimp only
      exact hkeeps

/-- The links' settings outlast their suspension. -/
theorem State.suspendLinks_keeps : s.KeepsBut [] { s with links := s.links.map Link.suspended } := .ofSameLinks s fun k => by
  have hmap : (s.links.map Link.suspended)[k] = (s.link k).suspended := Vector.getElem_map ..
  rw [hmap]
  exact ⟨rfl, rfl, rfl, rfl, rfl⟩

theorem State.suspendAll_keeps : s.KeepsBut [.partState] s.suspendAll := by
  have hleft : s.KeepsBut [.partState] s.linesSuspended := s.linesSuspended_leaving.keepsAll (fun _ => id) _
  rw [State.suspendAll_eq]
  generalize s.linesSuspended = u at hleft ⊢
  exact hleft.trans ((u.suspendLinks_keeps.mono (by simp)).trans (.ofPartState _ .configuring))

theorem suspendReq_keeps : s.KeepsBut [.partState] (suspendReq p s).1 := by
  unfold suspendReq
  split
  · exact .refl s _
  · exact s.suspendAll_keeps

end

end Sys2Proof.Machine
end

section
/-! Which commands change which aspect, and what the events of a line or a slot leave; the obligation on settings. -/

namespace Sys2Proof.Machine

/-- The aspects that a command may change. -/
def changesOf : Instr → List Aspect
  | .defineLine _ | .undefineLine _ | .setRate _ => [.lines]
  | .enrollStation _ | .removeStation _ | .bypassStation _ => [.config]
  | .mapCause _ | .unmapCause _ => [.causeMap]
  | .readOpen _ => [.snapshot]
  | .armTrigger _ | .disarmTrigger _ | .triggerExpiry _ => [.triggers]
  | .loadClock _ | .stepClock _ => [.plant, .triggers]
  | .setLink _ => [.links]
  | .setNoticeMask _ => [.mask]
  | .setWatermark _ => [.watermark]
  | .takeNotices _ => [.notice]
  | .clearAttention _ => [.flags, .notice, .noticeFirst]
  | .setAttention _ => [.modes, .notice, .noticeFirst]
  | .commit _ | .suspend _ => [.partState]
  | .runClockTick => [.runClock]
  | .plantSecondAdvance | .plantClockLimit => [.plant]
  | .resetRelease | .startUpEnd _ _ => [.resetPhase]
  | _ => []

section
variable {s t : State} {i : Instr}

/-- A request's block changes what the request may change. -/
theorem requestBlock_keeps (i : Instr) (p : List Byte) (s : State) : s.KeepsBut (changesOf i) (requestBlock i p s).1 := by
  cases i with
  | defineLine => exact defineLine_keeps p s
  | undefineLine => exact undefineLine_keeps p s
  | enrollStation => exact enrollStation_keeps p s
  | removeStation => exact removeStation_keeps p s
  | bypassStation => exact bypassStation_keeps p s
  | readStation => exact (readStation_state p s).symm ▸ .refl s _
  | mapCause => exact mapCause_keeps p s
  | unmapCause => exact unmapCause_keeps p s
  | readMap => exact (readMap_state p s).symm ▸ .refl s _
  | declareLineMode => exact declareLineMode_keeps p s
  | readLineStatus => exact (readLineStatus_state p s).symm ▸ .refl s _
  | setRate => exact setRate_keeps p s
  | closePeriod => exact closePeriod_keeps p s
  | listClosed => exact (listClosed_state p s).symm ▸ .refl s _
  | readClosed => exact (readClosed_state p s).symm ▸ .refl s _
  | releaseClosed => exact releaseClosed_keeps p s
  | readOpen => exact readOpen_keeps p s
  | loadClock => exact loadClock_keeps p s
  | stepClock => exact stepClock_keeps p s
  | armTrigger => exact armTrigger_keeps p s
  | disarmTrigger => exact disarmTrigger_keeps p s
  | setLink => exact setLink_keeps p s
  | readLinkStats => exact readLinkStats_keeps p s
  | setRehearse => exact setRehearse_keeps p s
  | injectReport => exact injectReport_keeps p s
  | takeNotices => exact takeNotices_keeps p s
  | setNoticeMask => exact setNoticeMask_keeps p s
  | setWatermark => exact setWatermark_keeps p s
  | clearAttention => exact clearAttention_keeps p s
  | setAttention => exact setAttention_keeps p s
  | commit => exact commitReq_keeps p s
  | suspend => exact suspendReq_keeps p s
  | lineReset => exact lineResetReq_keeps p s
  | _ => exact .refl s _

/-- A request, in each of its ways, changes what its block may change. -/
theorem request_keeps (i : Instr) (kind : Byte) (lengths : List Nat) (p : List Byte) (s : State) :
    s.KeepsBut (changesOf i) (s.request kind lengths (requestBlock i) p) :=
  State.request_cases (P := fun t => s.KeepsBut (changesOf i) t) (.refl s _) (.ofHost s _ _) (fun _ => .ofHost s _ _)
    fun _ => (requestBlock_keeps i p s).trans (.ofHost _ _ _)

/-! ## The events -/

theorem State.tickRunClock_keeps (s : State) : s.KeepsBut [.runClock] s.tickRunClock := by
  unfold State.tickRunClock
  split
  all_goals exact .ofRunClock s _

theorem State.advancePlant_keeps (s : State) : s.KeepsBut [.plant] s.advancePlant := by
  unfold State.advancePlant
  repeat' split
  all_goals exact .ofPlant s _

theorem State.limitPlant_keeps (s : State) : s.KeepsBut [.plant] s.limitPlant := by
  unfold State.limitPlant
  repeat' split
  all_goals exact .ofPlant s _

theorem State.takeRelease_keeps (s : State) : s.KeepsBut [.resetPhase] s.takeRelease := by
  unfold State.takeRelease
  split
  all_goals exact .ofResetPhase s _

theorem State.takeStartUpEnd_keeps (s : State) (a b : Bool) : s.KeepsBut [.resetPhase] (s.takeStartUpEnd a b) := by
  unfold State.takeStartUpEnd
  split
  · exact .trans (.ofResetPhase s .running) (.ofHost _ _ _)
  all_goals exact .refl s _

/-- What an event of a slot, a line or a station may touch. -/
def Scope.offTriggers : Scope := { line := fun _ => True, link := fun _ => True, trigger := fun _ => False, part := False }

theorem Touch.keepsNone (h : Touch .offTriggers s t) : s.KeepsBut [] t := h.keepsAll (fun _ => id) _

/-- An event changes what it may change. -/
theorem event_keeps (hf : requestForm i = none) (hc : carriesAny i = false) (he : exec i s = .next t) : s.KeepsBut (changesOf i) t := by
  have hl : ∀ l, Scope.offTriggers.line l := fun _ => trivial
  have hk : ∀ k, Scope.offTriggers.link k := fun _ => trivial
  cases i with
  | runClockTick => cases he; exact s.tickRunClock_keeps
  | plantSecondAdvance => cases he; exact s.advancePlant_keeps
  | plantClockLimit => cases he; exact s.limitPlant_keeps
  | resetRelease => cases he; exact s.takeRelease_keeps
  | startUpEnd a b => cases he; exact s.takeStartUpEnd_keeps a b
  | triggerExpiry k =>
    cases he
    exact (Touch.takeTriggerExpiry (sc := .running) (fun _ => trivial) trivial).keepsButTriggers
  | ageLimit l => cases he; exact (Touch.takeAgeLimit (hl l)).keepsNone
  | promotionExpiry l => cases he; exact (Touch.promote (hl l)).keepsNone
  | confirmationExpiry l => cases he; exact (Touch.confirmRestart (hl l)).keepsNone
  | longStopExpiry l => cases he; exact (Touch.takeLongStop (hl l)).keepsNone
  | durationCapExpiry l => cases he; exact (Touch.takeCap (hl l)).keepsNone
  | allowanceExpiry l => cases he; exact (Touch.takeAllowance (hl l)).keepsNone
  | windowExpiry l => cases he; exact (Touch.completeWindow (hl l)).keepsNone
  | gapExpiry n => cases he; exact (Touch.takeGapExpiry n fun _ _ => trivial).keepsNone
  | roundStart k => cases he; exact (Touch.takeRoundStart (hk k)).keepsNone
  | idleCheckExpiry k => cases he; exact (Touch.takeIdleCheck (hk k)).keepsNone
  | skippedBusy w => cases he; exact (Touch.takeBusy (hk w.link) w.level).keepsNone
  | pollSent k => cases he; exact (Touch.takePollSent (hk k)).keepsNone
  | replyWaitExpiry k => cases he; exact (Touch.takeReplyWait hl (hk k)).keepsNone
  | replyReceived k w => cases he; exact (Touch.takeReply hl (hk k) w).keepsNone
  | replyGapExpiry k => cases he; exact (Touch.takeReplyGap hl (hk k)).keepsNone
  | replyCharacterReceived k e => cases he; exact (Touch.takeReplyChar (hk k) e).keepsNone
  | resetPin | responseSent | hostByteReceived | hostCharacterGapExpiry => cases hc
  | _ => cases hf

/-- A command that brings no other changes what it may change. -/
theorem exec_keeps (he : exec i s = .next t) (hc : carriesAny i = false) : s.KeepsBut (changesOf i) t := by
  cases hf : requestForm i with
  | none => exact event_keeps hf hc he
  | some f =>
    obtain ⟨kind, lengths, p⟩ := f
    rw [exec_request hf] at he
    cases he
    exact request_keeps i kind lengths p s

end

/-! ## The events of a slot -/

section
variable {s : State} {k : Fin 4}

theorem State.putLink_onlyLink (s : State) (k : Fin 4) (L : Link) : s.OnlyLink (s.putLink k L) k := (State.OnlyLink.refl s k).putLink L

theorem State.setPhase_onlyLink (s : State) (k : Fin 4) (p : SlotPhase) : s.OnlyLink (s.setPhase k p) k := s.putLink_onlyLink k _

theorem State.takeRoundStart_onlyLink (s : State) (k : Fin 4) : s.OnlyLink (s.takeRoundStart k) k := by
  unfold State.takeRoundStart
  split
  · split
    · exact s.putLink_onlyLink k _
    · exact .refl s k
  all_goals exact .refl s k

theorem State.takeIdleCheck_onlyLink (s : State) (k : Fin 4) : s.OnlyLink (s.takeIdleCheck k) k := by
  unfold State.takeIdleCheck
  split
  · exact .refl s k
  · split
    · exact (s.setPhase_onlyLink k _).putLink _
    all_goals exact .refl s k

theorem State.takeBusy_onlyLink (s : State) (k : Fin 4) (level : Pair Bool) : s.OnlyLink (s.takeBusy k level) k := by
  cases hround : (s.link k).round with
  | none =>
    rw [State.takeBusy_no_round hround]
    exact .refl s k
  | some r =>
    by_cases hphase : r.phase = .idleCheck
    · cases hstart : (s.link k).polarity.seesStart level with
      | false =>
        rw [State.takeBusy_noStart hround hphase hstart]
        exact .refl s k
      | true =>
        obtain ⟨honly, hsame⟩ := s.skippedBusy_leaves k
        rw [State.takeBusy_start hround hphase hstart]
        exact honly.trans (State.nextSlot_onlyLink (hsame.round.trans hround))
    · rw [State.takeBusy_otherPhase hround hphase]
      exact .refl s k

theorem State.takePollSent_onlyLink (s : State) (k : Fin 4) : s.OnlyLink (s.takePollSent k) k := by
  unfold State.takePollSent
  split
  · exact .refl s k
  · split
    · exact s.setPhase_onlyLink k _
    all_goals exact .refl s k

theorem State.takeReplyChar_onlyLink (s : State) (k : Fin 4) (e : CharEdge) : s.OnlyLink (s.takeReplyChar k e) k := by
  unfold State.takeReplyChar
  split
  · exact .refl s k
  · split
    · split
      · exact s.setPhase_onlyLink k _
      · exact .refl s k
    · split
      · exact s.setPhase_onlyLink k _
      · exact .refl s k
    · exact s.setPhase_onlyLink k _
    all_goals exact .refl s k

end

/-! ## The events of a line, and those of a slot -/

theorem lineEvent_touch {c : Instr} {s t : State} {l : Fin 8} (h : c = .promotionExpiry l ∨ c = .confirmationExpiry l ∨ c = .longStopExpiry l
    ∨ c = .durationCapExpiry l ∨ c = .allowanceExpiry l ∨ c = .windowExpiry l ∨ c = .ageLimit l) (he : exec c s = .next t) :
    Touch (.ofLine l) s t := by
  rcases h with rfl | rfl | rfl | rfl | rfl | rfl | rfl
  · cases he; exact .promote rfl
  · cases he; exact .confirmRestart rfl
  · cases he; exact .takeLongStop rfl
  · cases he; exact .takeCap rfl
  · cases he; exact .takeAllowance rfl
  · cases he; exact .completeWindow rfl
  · cases he; exact .takeAgeLimit rfl

theorem slotEvent_onlyLink {c : Instr} {s t : State} {k : Fin 4} (h : c = .roundStart k ∨ c = .idleCheckExpiry k
    ∨ (∃ level, c = .skippedBusy ⟨k, level⟩) ∨ c = .pollSent k ∨ (∃ e, c = .replyCharacterReceived k e)) (he : exec c s = .next t) :
    s.OnlyLink t k := by
  rcases h with rfl | rfl | ⟨level, rfl⟩ | rfl | ⟨e, rfl⟩
  · cases he; exact s.takeRoundStart_onlyLink k
  · cases he; exact s.takeIdleCheck_onlyLink k
  · cases he; exact s.takeBusy_onlyLink k level
  · cases he; exact s.takePollSent_onlyLink k
  · cases he; exact s.takeReplyChar_onlyLink k e

/-! ## The commands of each aspect -/

section
variable {c : Instr}

theorem changes_resetPhase (h : .resetPhase ∈ changesOf c) : (∃ a b, c = .startUpEnd a b) ∨ c = .resetRelease := by
  revert h
  unfold changesOf
  split
  all_goals simp

theorem changes_runClock (h : .runClock ∈ changesOf c) : c = .runClockTick := by
  revert h
  unfold changesOf
  split
  all_goals simp

theorem changes_plant (h : .plant ∈ changesOf c) :
    c = .plantSecondAdvance ∨ c = .plantClockLimit ∨ ∃ p, c = .loadClock p ∨ c = .stepClock p := by
  revert h
  unfold changesOf
  split
  all_goals simp

theorem changes_partState (h : .partState ∈ changesOf c) : ∃ p, c = .commit p ∨ c = .suspend p := by
  revert h
  unfold changesOf
  split
  all_goals simp

theorem changes_snapshot (h : .snapshot ∈ changesOf c) : ∃ p, c = .readOpen p := by
  revert h
  unfold changesOf
  split
  all_goals simp

theorem changes_causeMap (h : .causeMap ∈ changesOf c) : ∃ p, c = .mapCause p ∨ c = .unmapCause p := by
  revert h
  unfold changesOf
  split
  all_goals simp

theorem changes_mask (h : .mask ∈ changesOf c) : ∃ p, c = .setNoticeMask p := by
  revert h
  unfold changesOf
  split
  all_goals simp

theorem changes_watermark (h : .watermark ∈ changesOf c) : ∃ p, c = .setWatermark p := by
  revert h
  unfold changesOf
  split
  all_goals simp

theorem changes_modes (h : .modes ∈ changesOf c) : ∃ p, c = .setAttention p := by
  revert h
  unfold changesOf
  split
  all_goals simp

theorem changes_flags (h : .flags ∈ changesOf c) : ∃ p, c = .clearAttention p := by
  revert h
  unfold changesOf
  split
  all_goals simp

theorem changes_notice (h : .notice ∈ changesOf c) : ∃ p, c = .clearAttention p ∨ c = .setAttention p ∨ c = .takeNotices p := by
  revert h
  unfold changesOf
  split
  all_goals simp

theorem changes_noticeFirst (h : .noticeFirst ∈ changesOf c) : ∃ p, c = .clearAttention p ∨ c = .setAttention p := by
  revert h
  unfold changesOf
  split
  all_goals simp

theorem changes_links (h : .links ∈ changesOf c) : ∃ p, c = .setLink p := by
  revert h
  unfold changesOf
  split
  all_goals simp

theorem changes_config (h : .config ∈ changesOf c) : ∃ p, c = .enrollStation p ∨ c = .removeStation p ∨ c = .bypassStation p := by
  revert h
  unfold changesOf
  split
  all_goals simp

theorem changes_lines (h : .lines ∈ changesOf c) : ∃ p, c = .defineLine p ∨ c = .undefineLine p ∨ c = .setRate p := by
  revert h
  unfold changesOf
  split
  all_goals simp

theorem changes_triggers (h : .triggers ∈ changesOf c) :
    (∃ p, c = .armTrigger p ∨ c = .disarmTrigger p ∨ c = .loadClock p ∨ c = .stepClock p) ∨ ∃ k, c = .triggerExpiry k := by
  revert h
  unfold changesOf
  split
  all_goals simp

end

/-- Settles O60: `exec_keeps`, aspect by aspect; the events of a line and of a slot by their scopes. -/
theorem settingsAreChangedByTheirCommandsAlone : Obligations.SettingsAreChangedByTheirCommandsAlone := by
  intro c s t he hc
  have hkeeps := exec_keeps he hc
  refine ⟨fun hend hrelease => hkeeps .resetPhase fun hin => ?_, fun h => hkeeps .runClock fun hin => h (changes_runClock hin),
    fun hsecond hlimit hset => hkeeps .plant fun hin => ?_, fun h => hkeeps .partState fun hin => ?_,
    fun h => hkeeps .snapshot fun hin => ?_, fun h => hkeeps .causeMap fun hin => ?_, fun h => hkeeps .mask fun hin => ?_,
    fun h => hkeeps .watermark fun hin => ?_, fun h => hkeeps .modes fun hin => ?_, fun hclear => ⟨hkeeps .flags fun hin => ?_,
    fun hset hmode => ?_⟩, fun h => hkeeps .links fun hin => ?_, fun h => hkeeps .config fun hin => ?_,
    fun h => hkeeps .lines fun hin => ?_, fun hset hexpiry => hkeeps .triggers fun hin => ?_, fun l h => ?_, fun k h => ?_⟩
  · rcases changes_resetPhase hin with ⟨a, b, hcommand⟩ | hcommand
    · exact hend a b hcommand
    · exact hrelease hcommand
  · rcases changes_plant hin with hcommand | hcommand | ⟨p, hcommand⟩
    · exact hsecond hcommand
    · exact hlimit hcommand
    · obtain ⟨hload, hstep⟩ := hset p
      exact hcommand.elim hload hstep
  · obtain ⟨p, hcommand⟩ := changes_partState hin
    obtain ⟨hcommit, hsuspend⟩ := h p
    exact hcommand.elim hcommit hsuspend
  · obtain ⟨p, hcommand⟩ := changes_snapshot hin
    exact h p hcommand
  · obtain ⟨p, hcommand⟩ := changes_causeMap hin
    obtain ⟨hmap, hunmap⟩ := h p
    exact hcommand.elim hmap hunmap
  · obtain ⟨p, hcommand⟩ := changes_mask hin
    exact h p hcommand
  · obtain ⟨p, hcommand⟩ := changes_watermark hin
    exact h p hcommand
  · obtain ⟨p, hcommand⟩ := changes_modes hin
    exact h p hcommand
  · obtain ⟨p, hcommand⟩ := changes_flags hin
    exact hclear p hcommand
  · rcases hmode with hfirst | htake
    · refine (hkeeps .noticeFirst (fun hin => ?_) hfirst).2
      obtain ⟨p, hcommand⟩ := changes_noticeFirst hin
      exact hcommand.elim (hclear p) (hset p)
    · refine hkeeps .notice fun hin => ?_
      obtain ⟨p, hcommand⟩ := changes_notice hin
      exact hcommand.elim (hclear p) fun hcommand => hcommand.elim (hset p) (htake p)
  · obtain ⟨p, hcommand⟩ := changes_links hin
    exact h p hcommand
  · obtain ⟨p, hcommand⟩ := changes_config hin
    obtain ⟨henroll, hremove, hbypass⟩ := h p
    exact hcommand.elim henroll fun hcommand => hcommand.elim hremove hbypass
  · obtain ⟨p, hcommand⟩ := changes_lines hin
    obtain ⟨hdefine, hundefine, hrate⟩ := h p
    exact hcommand.elim hdefine fun hcommand => hcommand.elim hundefine hrate
  · rcases changes_triggers hin with ⟨p, hcommand⟩ | ⟨k, hcommand⟩
    · obtain ⟨harm, hdisarm, hload, hstep⟩ := hset p
      exact hcommand.elim harm fun hcommand => hcommand.elim hdisarm fun hcommand => hcommand.elim hload hstep
    · exact hexpiry k hcommand
  · have htouch := lineEvent_touch h he
    exact ⟨htouch.sameBeside, htouch.links_same fun _ => id, htouch.frame.host⟩
  · have honly := slotEvent_onlyLink h he
    exact ⟨honly.frame, fun k' hk => honly.other hk⟩

end Sys2Proof.Machine
end

section
/-! The receiver of the Host Link Controller (R181–R184): how a frame's bytes are read, what hunting over bytes finds, and which request a frame is. -/

namespace Sys2Proof.Machine

/-! ## Reading a frame (R181, R182) -/

section
variable {bytes : List Byte} {len : Nat}

theorem scanFrame_headless (h : bytes.length < 2) : scanFrame bytes = .incomplete := if_pos h

theorem scanFrame_badLength (h : 2 ≤ bytes.length) (hlen : u16 bytes 0 = 0 ∨ 257 < u16 bytes 0) : scanFrame bytes = .bad :=
  (if_neg (Nat.not_lt.mpr h)).trans (if_pos hlen)

/-- A frame whose length is in range is read when its last check byte is there. -/
theorem scanFrame_headed (h : 2 ≤ bytes.length) (hlen : u16 bytes 0 = len) (hpos : 0 < len) (hmax : len ≤ 257) : scanFrame bytes =
    if bytes.length < len + 4 then .incomplete
    else if check (bytes.take (len + 2)) = (bytes.drop (len + 2)).take 2 then
      .good (bytes.getD 2 0#8) ((bytes.drop 3).take (len - 1)) (bytes.drop (len + 4))
    else .bad := by
  have hrange : ¬(u16 bytes 0 = 0 ∨ 257 < u16 bytes 0) := by omega
  refine (if_neg (Nat.not_lt.mpr h)).trans ((if_neg hrange).trans ?_)
  rw [hlen]

/-- The two length bytes are the first two. -/
theorem u16_head (lo hi : Byte) (rest : List Byte) : u16 (lo :: hi :: rest) 0 = lo.toNat + 256 * hi.toNat := rfl

theorem u16_append {more : List Byte} (h : 2 ≤ bytes.length) : u16 (bytes ++ more) 0 = u16 bytes 0 := by
  match bytes, h with
  | lo :: hi :: rest, _ => rfl

/-- A frame found bad stays so, and a good one good, whatever follows. -/
theorem scanFrame_bad_append (h : scanFrame bytes = .bad) (more : List Byte) : scanFrame (bytes ++ more) = .bad := by
  have htwo : 2 ≤ bytes.length := Nat.le_of_not_lt fun hshort => by
    rw [scanFrame_headless hshort] at h
    cases h
  have hmore : 2 ≤ (bytes ++ more).length := by rw [List.length_append]; omega
  by_cases hlen : u16 bytes 0 = 0 ∨ 257 < u16 bytes 0
  · exact scanFrame_badLength hmore (by rwa [u16_append htwo])
  · rw [scanFrame_headed htwo rfl (by omega) (by omega)] at h
    rw [scanFrame_headed hmore (u16_append htwo) (by omega) (by omega)]
    by_cases hshort : bytes.length < u16 bytes 0 + 4
    · rw [if_pos hshort] at h
      cases h
    · have hlong : ¬(bytes ++ more).length < u16 bytes 0 + 4 := by rw [List.length_append]; omega
      rw [if_neg hshort] at h
      rw [if_neg hlong, List.take_append_of_le_length (by omega), List.drop_append_of_le_length (by omega),
        List.take_append_of_le_length (by rw [List.length_drop]; omega)]
      split at h
      · cases h
      · next hcheck => exact if_neg hcheck

theorem scanFrame_good_append {kind : Byte} {payload rest : List Byte} (h : scanFrame bytes = .good kind payload rest) (more : List Byte) :
    scanFrame (bytes ++ more) = .good kind payload (rest ++ more) := by
  have htwo : 2 ≤ bytes.length := Nat.le_of_not_lt fun hshort => by
    rw [scanFrame_headless hshort] at h
    cases h
  have hmore : 2 ≤ (bytes ++ more).length := by rw [List.length_append]; omega
  by_cases hlen : u16 bytes 0 = 0 ∨ 257 < u16 bytes 0
  · rw [scanFrame_badLength htwo hlen] at h
    cases h
  · rw [scanFrame_headed htwo rfl (by omega) (by omega)] at h
    rw [scanFrame_headed hmore (u16_append htwo) (by omega) (by omega)]
    by_cases hshort : bytes.length < u16 bytes 0 + 4
    · rw [if_pos hshort] at h
      cases h
    · have hlong : ¬(bytes ++ more).length < u16 bytes 0 + 4 := by rw [List.length_append]; omega
      rw [if_neg hshort] at h
      rw [if_neg hlong, List.take_append_of_le_length (by omega), List.drop_append_of_le_length (by omega),
        List.take_append_of_le_length (by rw [List.length_drop]; omega), List.drop_append_of_le_length (by omega),
        List.take_append_of_le_length (by rw [List.length_drop]; omega), List.drop_append_of_le_length (by omega)]
      split at h
      · next hcheck =>
        obtain ⟨rfl, rfl, rfl⟩ := FrameScan.good.inj h
        rw [if_pos hcheck, List.getD_eq_getElem?_getD, List.getElem?_append_left (by omega), ← List.getD_eq_getElem?_getD]
      · cases h

end

/-! ## A request's frame -/

section
variable {kind : Byte} {p : List Byte}

/-- What the check of a request's frame covers. -/
def frameCovered (kind : Byte) (p : List Byte) : List Byte := enc2 (1 + p.length) ++ kind :: p

theorem requestFrame_tail : (requestFrame kind p).tail = frameCovered kind p ++ check (frameCovered kind p) := rfl

theorem frameCovered_length : (frameCovered kind p).length = p.length + 3 := by
  simp only [frameCovered, enc2, List.length_append, List.length_cons, List.length_nil]
  omega

theorem check_length (bytes : List Byte) : (check bytes).length = 2 := rfl

theorem frameCovered_u16 (h : p.length ≤ 256) (more : List Byte) : u16 (frameCovered kind p ++ more) 0 = p.length + 1 := by
  show (BitVec.ofNat 8 (1 + p.length)).toNat + 256 * (BitVec.ofNat 8 ((1 + p.length) / 256)).toNat = _
  rw [BitVec.toNat_ofNat, BitVec.toNat_ofNat]
  omega

theorem scanFrame_requestFrame (h : p.length ≤ 256) (rest : List Byte) :
    scanFrame ((requestFrame kind p).tail ++ rest) = .good kind p rest := by
  have hcovered : (frameCovered kind p).length = p.length + 1 + 2 := frameCovered_length
  have hlength : (frameCovered kind p ++ (check (frameCovered kind p) ++ rest)).length = p.length + 1 + 4 + rest.length := by
    simp only [List.length_append, hcovered, check_length]
    omega
  have htake : (frameCovered kind p ++ (check (frameCovered kind p) ++ rest)).take (p.length + 1 + 2) = frameCovered kind p :=
    List.take_left' hcovered
  have hdrop : (frameCovered kind p ++ (check (frameCovered kind p) ++ rest)).drop (p.length + 1 + 2)
      = check (frameCovered kind p) ++ rest := List.drop_left' hcovered
  have hrest : (frameCovered kind p ++ (check (frameCovered kind p) ++ rest)).drop (p.length + 1 + 4) = rest := by
    rw [← List.append_assoc]
    exact List.drop_left' (by rw [List.length_append, hcovered, check_length])
  have hpayload : ((frameCovered kind p ++ (check (frameCovered kind p) ++ rest)).drop 3).take (p.length + 1 - 1) = p := by
    show (p ++ (check (frameCovered kind p) ++ rest)).take (p.length + 1 - 1) = p
    exact List.take_left' (Nat.add_sub_cancel ..).symm
  rw [requestFrame_tail, List.append_assoc, scanFrame_headed (by omega) (frameCovered_u16 h _) (by omega) (by omega),
    if_neg (by omega), htake, hdrop, hrest, hpayload, List.take_left' (check_length _), if_pos rfl]
  rfl

theorem scanFrame_requestFrame_take (h : p.length ≤ 256) {n : Nat} (hn : n < (requestFrame kind p).tail.length) :
    scanFrame ((requestFrame kind p).tail.take n) = .incomplete := by
  have hlength : (requestFrame kind p).tail.length = p.length + 1 + 4 := by
    rw [requestFrame_tail, List.length_append, frameCovered_length, check_length]
  have htaken : ((requestFrame kind p).tail.take n).length = n := by rw [List.length_take]; omega
  by_cases htwo : n < 2
  · exact scanFrame_headless (by omega)
  · have hhead : u16 ((requestFrame kind p).tail.take n) 0 = p.length + 1 := by
      have happend := u16_append (bytes := (requestFrame kind p).tail.take n) (more := (requestFrame kind p).tail.drop n) (by omega)
      rw [List.take_append_drop] at happend
      exact happend.symm.trans (frameCovered_u16 h _)
    rw [scanFrame_headed (by omega) hhead (by omega) (by omega), if_pos (by omega)]

end

/-- Settles O9: the covered bytes are read by their length, and the check is the one sent. -/
theorem framesReadBackWhole : Obligations.FramesReadBackWhole := fun _ _ rest h =>
  ⟨scanFrame_requestFrame h rest, fun _ hn => scanFrame_requestFrame_take h hn⟩

/-! ## Hunting over bytes (R182) -/

section
variable {gap : Bool} {fuel : Nat} {b : Byte} {rest : List Byte}

theorem hunt_nil (gap : Bool) (fuel : Nat) : hunt gap fuel [] = ([], .hunting) := by cases fuel <;> rfl

theorem hunt_drops (h : b ≠ 0xA5#8) : hunt gap (fuel + 1) (b :: rest) = hunt gap fuel rest := if_neg h

theorem hunt_collects (h : scanFrame rest = .incomplete) : hunt false (fuel + 1) (0xA5#8 :: rest) = ([], .collecting rest) := by
  simp [hunt, h]

theorem hunt_discards (h : scanFrame rest = .incomplete) : hunt true (fuel + 1) (0xA5#8 :: rest) = hunt true fuel rest := by
  simp [hunt, h]

theorem hunt_bad (h : scanFrame rest = .bad) : hunt gap (fuel + 1) (0xA5#8 :: rest) = hunt gap fuel rest := by simp [hunt, h]

theorem hunt_good {kind : Byte} {payload more : List Byte} (h : scanFrame rest = .good kind payload more) :
    hunt gap (fuel + 1) (0xA5#8 :: rest) = ((kind, payload) :: (hunt gap fuel more).1, (hunt gap fuel more).2) := by simp [hunt, h]

/-- After a character gap the receiver hunts. -/
theorem hunt_gap_receiver (fuel : Nat) (bytes : List Byte) : (hunt true fuel bytes).2 = .hunting := by
  induction fuel generalizing bytes with
  | zero =>
    cases bytes with
    | _ => rfl
  | succ fuel ih =>
    cases bytes with
    | nil => rfl
    | cons b rest =>
      by_cases hb : b = 0xA5#8
      · subst hb
        cases hscan : scanFrame rest with
        | incomplete => rw [hunt_discards hscan, ih]
        | bad => rw [hunt_bad hscan, ih]
        | good kind payload more => rw [hunt_good hscan, ih]
      · rw [hunt_drops hb, ih]

theorem hunt_noStart {bytes : List Byte} (h : 0xA5#8 ∉ bytes) : hunt gap fuel bytes = ([], .hunting) := by
  induction fuel generalizing bytes with
  | zero =>
    cases bytes with
    | _ => rfl
  | succ fuel ih =>
    cases bytes with
    | nil => rfl
    | cons b rest =>
      obtain ⟨hb, hrest⟩ := not_or.mp (mt List.mem_cons.mpr h)
      rw [hunt_drops (Ne.symm hb), ih hrest]

end

/-! ## The receiver byte by byte -/

/-- The receiver put into a state. -/
def State.putReceiver (s : State) (r : Receiver) : State := { s with host := { s.host with receiver := r } }

section
variable {s : State} {b : Byte} {bytes : List Byte}

theorem State.putReceiver_self {r : Receiver} (h : s.host.receiver = r) : s.putReceiver r = s := by
  rw [State.putReceiver, ← h]

theorem State.receive_eq (s : State) (gap : Bool) (bytes : List Byte) : s.receive gap bytes =
    (hunt gap bytes.length bytes).1.foldl State.takeFrame (s.putReceiver (hunt gap bytes.length bytes).2) := rfl

theorem State.takeHostByte_hunting (h : s.host.receiver = .hunting) (b : Byte) : s.takeHostByte b = s.receive false [b] := by
  simp only [State.takeHostByte, h]

theorem State.takeHostByte_collecting (h : s.host.receiver = .collecting bytes) (b : Byte) :
    s.takeHostByte b = s.receive false (0xA5#8 :: (bytes ++ [b])) := by
  simp only [State.takeHostByte, h]
  rfl

theorem State.takeHostGap_collecting (h : s.host.receiver = .collecting bytes) : s.takeHostGap = s.receive true (0xA5#8 :: bytes) := by
  simp only [State.takeHostGap, h]
  rfl

/-- A frame leaves the receiver as it is. -/
theorem State.takeFrame_receiver (s : State) (f : Byte × List Byte) : (s.takeFrame f).host.receiver = s.host.receiver := by
  refine State.takeFrame_keeps (P := fun t => t.host.receiver = s.host.receiver) (fun kind t h => ?_)
    (fun i kind lengths p t _ h => ?_) rfl f
  · unfold hostUnknownKind
    split
    · exact h
    · exact h
  · refine State.request_cases (P := fun t => t.host.receiver = s.host.receiver) h h (fun _ => h) fun _ => ?_
    have hhost := (Settles.request i p t).sameHost.host
    exact (congrArg HostLink.receiver hhost).trans h

theorem foldl_takeFrame_receiver (fs : List (Byte × List Byte)) (s : State) :
    (fs.foldl State.takeFrame s).host.receiver = s.host.receiver :=
  foldl_leaves (P := fun t : State => t.host.receiver) (fun t f _ => t.takeFrame_receiver f) s

theorem State.receive_receiver (s : State) (gap : Bool) (bytes : List Byte) :
    (s.receive gap bytes).host.receiver = (hunt gap bytes.length bytes).2 := by
  rw [State.receive_eq, foldl_takeFrame_receiver]
  rfl

end

/-- Settles O7: what hunting finds in the bytes that the receiver holds. -/
theorem receiverHuntsAndCollects : Obligations.ReceiverHuntsAndCollects := by
  intro s b
  have hnext : ∀ {t u : State}, t = u → Host.Outcome.next (φ := Fault) (ρ := Refusal) t = .next u := fun h => congrArg _ h
  refine ⟨fun h => hnext ?_, fun h hb => hnext ?_, fun h hb => hnext ?_, fun bytes h hscan => hnext ?_,
    fun bytes h => ⟨_, rfl, ?_, fun hstart hscan => ?_⟩, fun h => hnext ?_⟩
  · simp only [State.takeHostByte, h]
  · rw [State.takeHostByte_hunting h, State.receive_eq, List.length_singleton, hunt_drops hb, hunt_nil]
    exact State.putReceiver_self h
  · rw [hb, State.takeHostByte_hunting h, State.receive_eq, List.length_singleton, hunt_collects rfl]
    rfl
  · rw [State.takeHostByte_collecting h, State.receive_eq, List.length_cons, hunt_collects hscan]
    rfl
  · rw [State.takeHostGap_collecting h, State.receive_receiver, hunt_gap_receiver]
  · rw [State.takeHostGap_collecting h, State.receive_eq, List.length_cons, hunt_discards hscan, hunt_noStart hstart]
    rfl
  · rcases h with h | h
    · simp only [State.takeHostGap, h]
    · simp only [State.takeHostGap, h]

/-! ## The request that a frame is (R183) -/

section
variable {s : State} {kind : Byte} {p : List Byte}

/-- A frame of a request's kind is the request. -/
theorem State.takeFrame_request {i : Instr} {lengths : List Nat} (h : requestForm i = some (kind, lengths, p)) (s : State) :
    s.takeFrame (kind, p) = s.request kind lengths (requestBlock i) p := by
  cases i with
  | _ => cases h <;> rfl

/-- A kind that names no request is in no row of the table. -/
theorem State.takeFrame_unknown (h : ∀ i lengths q, requestForm i ≠ some (kind, lengths, q)) (s : State) :
    s.takeFrame (kind, p) = hostUnknownKind kind s := by
  have hnone : requestTable.find? (fun row => row.1 == kind) = none := List.find?_eq_none.mpr fun row hrow hkind => by
    obtain ⟨i, lengths, hform, _⟩ := requestTable_row hrow p
    rw [beq_iff_eq.mp hkind] at hform
    exact h i lengths p hform
  simp only [State.takeFrame, hnone]

end

/-- Settles O8: the bytes collected are the request's frame, which is read whole and is its request. -/
theorem lastByteOfAFrameIsItsRequest : Obligations.LastByteOfAFrameIsItsRequest := by
  intro kind p bytes b s hp hreceiver hframe
  have hscan : scanFrame (bytes ++ [b]) = .good kind p [] := by
    have hread := scanFrame_requestFrame (kind := kind) hp []
    rwa [List.append_nil, ← hframe] at hread
  have htaken : s.takeHostByte b = (s.putReceiver .hunting).takeFrame (kind, p) := by
    rw [State.takeHostByte_collecting hreceiver, State.receive_eq, List.length_cons, hunt_good hscan, hunt_nil]
    rfl
  refine ⟨fun i lengths hform => ?_, fun hunknown hsending => ?_, fun hunknown hsending => ?_⟩
  · rw [exec_request hform, ← State.takeFrame_request hform]
    exact congrArg Host.Outcome.next htaken
  · rw [State.takeFrame_unknown hunknown, hostUnknownKind, if_neg (by rw [State.putReceiver, hsending]; nofun)] at htaken
    exact congrArg Host.Outcome.next htaken
  · rw [State.takeFrame_unknown hunknown, hostUnknownKind, if_pos (by exact hsending)] at htaken
    exact congrArg Host.Outcome.next htaken

end Sys2Proof.Machine
end

section
/-! The payloads of responses (R183): how long each is, and that none is longer than 254 bytes. -/

namespace Sys2Proof.Machine

/-! ## The lengths of fields -/

@[simp] theorem enc1_length (n : Nat) : (enc1 n).length = 1 := rfl
@[simp] theorem enc2_length (n : Nat) : (enc2 n).length = 2 := rfl
@[simp] theorem enc4_length (n : Nat) : (enc4 n).length = 4 := rfl
@[simp] theorem encTick_length (t : BitVec 32) : (encTick t).length = 4 := rfl
@[simp] theorem encFlag_length (b : Bool) : (encFlag b).length = 1 := rfl
@[simp] theorem encRoot_length (r : Root) : (encRoot r).length = 3 := rfl

@[simp] theorem encPlant_length (o : Option PlantTime) : (encPlant o).length = 5 := by
  cases o with
  | _ => rfl

section
variable {α : Type} {enc : α → List Byte} {n : Nat}

theorem encOpt_length (h : ∀ a, (enc a).length = n) (o : Option α) : (encOpt n enc o).length = n + 1 := by
  cases o with
  | none => simp [encOpt, Nat.add_comm]
  | some a => simp [encOpt, h, Nat.add_comm]

@[simp] theorem encOpt_enc1_length (f : α → Nat) (o : Option α) : (encOpt 1 (fun a => enc1 (f a)) o).length = 2 :=
  encOpt_length (enc := fun a => enc1 (f a)) (fun _ => rfl) o

@[simp] theorem encOpt_enc2_length (f : α → Nat) (o : Option α) : (encOpt 2 (fun a => enc2 (f a)) o).length = 3 :=
  encOpt_length (enc := fun a => enc2 (f a)) (fun _ => rfl) o

@[simp] theorem encOpt_enc4_length (f : α → Nat) (o : Option α) : (encOpt 4 (fun a => enc4 (f a)) o).length = 5 :=
  encOpt_length (enc := fun a => enc4 (f a)) (fun _ => rfl) o

@[simp] theorem encOpt_ticks_length (f : α → BitVec 32) (o : Option α) : (encOpt 4 (fun a => encTick (f a)) o).length = 5 :=
  encOpt_length (enc := fun a => encTick (f a)) (fun _ => rfl) o

@[simp] theorem encOpt_encTick_length (o : Option (BitVec 32)) : (encOpt 4 encTick o).length = 5 :=
  encOpt_length encTick_length o

theorem flatMap_length (l : List α) (h : ∀ a, (enc a).length = n) : (l.flatMap enc).length = n * l.length := by
  induction l with
  | nil => rfl
  | cons a l ih => rw [List.flatMap_cons, List.length_append, h, ih, List.length_cons, Nat.mul_succ, Nat.add_comm]

theorem encList_length (h : ∀ a, (enc a).length = n) (l : List α) : (encList enc l).length = n * l.length + 1 := by
  rw [encList, List.length_append, enc1_length, flatMap_length l h, Nat.add_comm]

end

/-! ## The lengths of records -/

/-- The kind fields of a notice take twelve bytes at most. -/
theorem NoticeBody.fields_length (tick : Tick) (b : NoticeBody) : (b.fields tick).length ≤ 12 := by
  cases b with
  | periodClosed n reason displaced => simp [NoticeBody.fields]
  | _ => simp [NoticeBody.fields]

theorem Notice.bytes_length (n : Notice) : n.bytes.length = 24 := by
  have hfields := n.body.fields_length n.tick
  simp only [Notice.bytes, List.length_append, List.length_replicate, enc1_length, enc2_length, encTick_length, encPlant_length]
  omega

theorem Trigger.bytes_length (t : Trigger) : t.bytes.length = 19 := by simp [Trigger.bytes]

theorem CauseEntry.bytes_length (e : CauseEntry) : e.bytes.length = 5 := rfl

theorem Station.bytes_length (r : Station) : r.bytes.length ≤ 60 := by
  delta Station.bytes
  simp

theorem LinkStats.bytes_length (x : LinkStats) : x.bytes.length = 28 := rfl

theorem State.linkPayload_length (s : State) (k : Fin 4) : (s.linkPayload k).length ≤ 60 := by
  simp [State.linkPayload, LinkStats.bytes_length]

theorem Candidate.bytes_length (c : Candidate) : c.bytes.length = 16 := rfl

theorem Stoppage.bytes_length (st : Stoppage) (restart confirm : Option Tick) : (st.bytes restart confirm).length = 50 := by
  simp [Stoppage.bytes]

theorem Condition.stopBytes_length (c : Condition) : c.stopBytes.length = 68 := by
  cases c with
  | candidate c => simp [Condition.stopBytes, encOpt_length Candidate.bytes_length]
  | stopped st => simp [Condition.stopBytes, Stoppage.bytes_length]
  | restarting st r c => simp [Condition.stopBytes, Stoppage.bytes_length]
  | _ => rfl

theorem Window.bytes_length (w : Window) : w.bytes.length = 18 := rfl

theorem RateState.bytes_length (r : RateState) : r.bytes.length = 37 := by
  simp [RateState.bytes, encOpt_length Window.bytes_length]

theorem Period.statusBytes_length (p : Period) : p.statusBytes.length = 10 := rfl

theorem encSegment_length (o : Option (Nat × TimeClass × Tick)) :
    (encOpt 6 (fun x : Nat × TimeClass × Tick => enc1 x.1 ++ (enc1 x.2.1.code ++ encTick x.2.2)) o).length = 7 :=
  encOpt_length (enc := fun x : Nat × TimeClass × Tick => enc1 x.1 ++ (enc1 x.2.1.code ++ encTick x.2.2)) (fun _ => rfl) o

theorem State.statusPayload_length (s : State) (l : Fin 8) (ln : Line) : (s.statusPayload l ln).length ≤ 254 := by
  simp [State.statusPayload, LineDef.bytes, encOpt_length enc1_length, encOpt_length enc2_length, encOpt_length enc4_length,
    encSegment_length, Condition.stopBytes_length, RateState.bytes_length, encOpt_length (fun lv : Live => lv.period.statusBytes_length)]

/-! ## The replies of the blocks -/

/-- The payload has room in a response frame. -/
def Reply.Fits (r : Reply) : Prop := r.payload.length ≤ 254

/-- A payload whose length the kernel counts. -/
theorem Reply.fits_of_count {r : Reply} (h : Nat.ble r.payload.length 254 = true) : r.Fits := Nat.le_of_ble_eq_true h

theorem Reply.ok_fits {payload : List Byte} (h : payload.length ≤ 254) : (Reply.ok payload).Fits := h

theorem Reply.refuse_fits (c : ResultCode) : (Reply.refuse c).Fits := Nat.zero_le _

theorem closePayload_length (closed opened : BitVec 32) (displaced : Option (BitVec 32)) : (closePayload closed opened displaced).length = 13 := by
  simp [closePayload]

section
variable (p : List Byte) (s : State)

/-! ### Replies of a byte at most -/

theorem defineLine_fits : (defineLine p s).2.Fits := by
  unfold defineLine
  repeat' split
  all_goals exact Reply.fits_of_count rfl

theorem undefineLine_fits : (undefineLine p s).2.Fits := by
  unfold undefineLine
  repeat' split
  all_goals exact Reply.fits_of_count rfl

theorem enrollStation_fits : (enrollStation p s).2.Fits := by
  unfold enrollStation
  dsimp only
  repeat' split
  all_goals exact Reply.fits_of_count rfl

theorem removeStation_fits : (removeStation p s).2.Fits := by
  unfold removeStation
  dsimp only
  repeat' split
  all_goals exact Reply.fits_of_count rfl

theorem bypassStation_fits : (bypassStation p s).2.Fits := by
  unfold bypassStation
  dsimp only
  repeat' split
  all_goals exact Reply.fits_of_count rfl

theorem mapCause_fits : (mapCause p s).2.Fits := by
  unfold mapCause
  repeat' split
  all_goals exact Reply.fits_of_count rfl

theorem unmapCause_fits : (unmapCause p s).2.Fits := by
  unfold unmapCause
  repeat' split
  all_goals exact Reply.fits_of_count rfl

theorem declareLineMode_fits : (declareLineMode p s).2.Fits := by
  unfold declareLineMode
  repeat' split
  all_goals exact Reply.fits_of_count rfl

theorem setRate_fits : (setRate p s).2.Fits := by
  unfold setRate
  dsimp only
  repeat' split
  all_goals exact Reply.fits_of_count rfl

theorem releaseClosed_fits : (releaseClosed p s).2.Fits := by
  unfold releaseClosed
  dsimp only
  repeat' split
  all_goals exact Reply.fits_of_count rfl

theorem loadClock_fits : (loadClock p s).2.Fits := by
  unfold loadClock
  dsimp only
  repeat' split
  all_goals exact Reply.fits_of_count rfl

theorem stepClock_fits : (stepClock p s).2.Fits := by
  unfold stepClock
  dsimp only
  repeat' split
  all_goals exact Reply.fits_of_count rfl

theorem armTrigger_fits : (armTrigger p s).2.Fits := by
  unfold armTrigger
  repeat' split
  all_goals exact Reply.fits_of_count rfl

theorem disarmTrigger_fits : (disarmTrigger p s).2.Fits := by
  unfold disarmTrigger
  repeat' split
  all_goals exact Reply.fits_of_count rfl

theorem setLink_fits : (setLink p s).2.Fits := by
  unfold setLink
  repeat' split
  all_goals exact Reply.fits_of_count rfl

theorem setNoticeMask_fits : (setNoticeMask p s).2.Fits := by
  unfold setNoticeMask
  repeat' split
  all_goals exact Reply.fits_of_count rfl

theorem setWatermark_fits : (setWatermark p s).2.Fits := by
  unfold setWatermark
  repeat' split
  all_goals exact Reply.fits_of_count rfl

theorem clearAttention_fits : (clearAttention p s).2.Fits := by
  unfold clearAttention
  repeat' split
  all_goals exact Reply.fits_of_count rfl

theorem setAttention_fits : (setAttention p s).2.Fits := by
  unfold setAttention
  repeat' split
  all_goals exact Reply.fits_of_count rfl

/-! ### Replies of a fixed length -/

theorem readStation_fits : (readStation p s).2.Fits := by
  unfold readStation
  dsimp only
  split
  · exact Reply.fits_of_count rfl
  · split
    · exact Reply.fits_of_count rfl
    · next r _ =>
      have hbytes := r.bytes_length
      refine Reply.ok_fits ?_
      rw [List.length_append, encTick_length]
      omega

theorem readLineStatus_fits : (readLineStatus p s).2.Fits := by
  unfold readLineStatus
  split
  · exact Reply.fits_of_count rfl
  · split
    · exact Reply.fits_of_count rfl
    · exact Reply.ok_fits (s.statusPayload_length _ _)

theorem closePayload_fits (closed opened : BitVec 32) (displaced : Option (BitVec 32)) :
    (Reply.ok (closePayload closed opened displaced)).Fits := Reply.ok_fits (by rw [closePayload_length]; decide)

theorem closePeriod_fits : (closePeriod p s).2.Fits := by
  unfold closePeriod
  split
  · exact Reply.fits_of_count rfl
  · split
    · exact Reply.fits_of_count rfl
    · split
      · exact Reply.fits_of_count rfl
      · split
        · exact Reply.fits_of_count rfl
        · exact closePayload_fits _ _ _

theorem setRehearse_fits : (setRehearse p s).2.Fits := by
  unfold setRehearse
  split
  · exact Reply.fits_of_count rfl
  · split
    · split
      · exact Reply.fits_of_count rfl
      · split
        · exact closePayload_fits _ _ _
        · exact closePayload_fits _ _ _
    all_goals exact Reply.fits_of_count rfl

theorem lineResetReq_fits : (lineResetReq p s).2.Fits := by
  unfold lineResetReq
  split
  · exact Reply.fits_of_count rfl
  · split
    · exact Reply.fits_of_count rfl
    · split
      · exact Reply.fits_of_count rfl
      · exact closePayload_fits _ _ _

theorem injectReport_fits : (injectReport p s).2.Fits := by
  unfold injectReport
  split
  · exact Reply.fits_of_count rfl
  · split
    · split
      · exact Reply.fits_of_count rfl
      · split
        · exact Reply.fits_of_count rfl
        · exact Reply.fits_of_count rfl
    all_goals exact Reply.fits_of_count rfl

theorem readLinkStats_fits : (readLinkStats p s).2.Fits := by
  have hpayload : ∀ k, (Reply.ok (s.linkPayload k)).Fits := fun k => Reply.ok_fits (Nat.le_trans (s.linkPayload_length k) (by decide))
  unfold readLinkStats
  split
  · exact Reply.fits_of_count rfl
  · split
    · exact Reply.fits_of_count rfl
    · split
      · exact hpayload _
      · exact hpayload _

theorem readClock_fits : (readClock p s).2.Fits := by
  refine Reply.ok_fits ?_
  simp

theorem readTriggers_fits : (readTriggers p s).2.Fits := by
  refine Reply.ok_fits ?_
  simp [encList_length Trigger.bytes_length]

theorem readAttention_fits : (readAttention p s).2.Fits := Reply.fits_of_count rfl

theorem identifyReq_fits : (identifyReq p s).2.Fits := by
  unfold identifyReq Reply.Fits
  simp only [Reply.ok, List.length_append, enc1_length, enc2_length, List.length_cons, List.length_nil]
  decide

theorem restartReq_fits : (restartReq p s).2.Fits := Reply.fits_of_count rfl

/-! ### Replies that hold a list -/

theorem readMap_fits : (readMap p s).2.Fits := by
  unfold readMap
  dsimp only
  split
  · exact Reply.fits_of_count rfl
  · refine Reply.ok_fits ?_
    have hitems : ((s.causeMap.drop (u16 p 0)).take 32).length ≤ 32 := List.length_take_le _ _
    simp only [List.length_append, enc2_length, encList_length CauseEntry.bytes_length]
    omega

/-- A piece of a record, and the bytes before it. -/
theorem encPiece_length (r : ClosedRecord) (offset length : Nat) : (encList (fun b => [b]) (r.piece offset length)).length ≤ length + 1 := by
  rw [encList_bytes, List.length_append, enc1_length, Nat.add_comm]
  exact Nat.add_le_add_right (List.length_take_le _ _) 1

theorem readClosed_fits : (readClosed p s).2.Fits := by
  unfold readClosed
  dsimp only
  split
  · exact Reply.fits_of_count rfl
  · split
    · exact Reply.fits_of_count rfl
    · next hlength =>
      split
      · exact Reply.fits_of_count rfl
      · next r _ =>
        split
        · exact Reply.fits_of_count rfl
        · refine Reply.ok_fits ?_
          have hpiece := encPiece_length r (u16 p 5) (u8 p 7)
          simp only [List.length_append, encTick_length, enc2_length]
          omega

theorem snapshotPayload_length (r : ClosedRecord) (offset length : Nat) : (snapshotPayload r offset length).length ≤ length + 14 := by
  have hpiece := encPiece_length r offset length
  simp only [snapshotPayload, List.length_append, encTick_length, enc2_length, enc1_length]
  omega

theorem readOpen_fits : (readOpen p s).2.Fits := by
  unfold readOpen
  dsimp only
  split
  · exact Reply.fits_of_count rfl
  · split
    · exact Reply.fits_of_count rfl
    · next hlength =>
      have hpayload : ∀ r offset, (Reply.ok (snapshotPayload r offset (u8 p 3))).Fits := fun r offset =>
        Reply.ok_fits (Nat.le_trans (snapshotPayload_length r offset (u8 p 3)) (by omega))
      split
      · split
        · exact Reply.fits_of_count rfl
        · split
          · exact Reply.fits_of_count rfl
          · exact hpayload _ _
      · split
        · exact Reply.fits_of_count rfl
        · split
          · split
            · exact Reply.fits_of_count rfl
            · exact hpayload _ _
          · exact Reply.fits_of_count rfl

theorem takeNotices_fits : (takeNotices p s).2.Fits := by
  unfold takeNotices
  dsimp only
  split
  · exact Reply.fits_of_count rfl
  · next hcount =>
    split
    · exact Reply.fits_of_count rfl
    · refine Reply.ok_fits ?_
      have hitems : (s.journal.queue.take (u8 p 0)).length ≤ u8 p 0 := List.length_take_le _ _
      simp only [List.length_append, enc2_length, enc4_length, encList_length Notice.bytes_length]
      omega

/-- A line has three records at most, each named in nine bytes. -/
theorem listClosed_fits (hs : s.storeSound) : (listClosed p s).2.Fits := by
  unfold listClosed
  split
  · exact Reply.fits_of_count rfl
  · next l _ =>
    refine Reply.ok_fits ?_
    have hitems := hs l
    rw [encList_length (n := 9) fun r => rfl]
    omega

theorem State.definedLines_length (s : State) : s.definedLines.length ≤ 8 := List.length_filter_le _ _

theorem State.commitPayload_length (s : State) : s.commitPayload.length ≤ 45 := by
  have hlines := s.definedLines_length
  rw [State.commitPayload, List.length_append, encTick_length, encList_length (n := 5) fun l => rfl]
  omega

theorem commitReq_fits : (commitReq p s).2.Fits := by
  unfold commitReq
  split
  · exact Reply.fits_of_count rfl
  · split
    · exact Reply.fits_of_count rfl
    · exact Reply.ok_fits (Nat.le_trans s.enterMonitoring.commitPayload_length (by decide))

theorem suspendPayload_length (before after : State) : (suspendPayload before after).length ≤ 81 := by
  have hlines := before.definedLines_length
  rw [suspendPayload, encList_length (n := 10) fun l => by simp]
  omega

theorem suspendReq_fits : (suspendReq p s).2.Fits := by
  unfold suspendReq
  split
  · exact Reply.fits_of_count rfl
  · exact Reply.ok_fits (Nat.le_trans (suspendPayload_length s s.suspendAll) (by decide))

end

/-- The reply of every request's block fits. -/
theorem requestBlock_fits {i : Instr} {kind : Byte} {lengths : List Nat} {p q : List Byte} {s : State}
    (h : requestForm i = some (kind, lengths, q)) (hs : s.storeSound) : (requestBlock i p s).2.Fits := by
  cases i with
  | defineLine => exact defineLine_fits p s
  | undefineLine => exact undefineLine_fits p s
  | enrollStation => exact enrollStation_fits p s
  | removeStation => exact removeStation_fits p s
  | bypassStation => exact bypassStation_fits p s
  | readStation => exact readStation_fits p s
  | mapCause => exact mapCause_fits p s
  | unmapCause => exact unmapCause_fits p s
  | readMap => exact readMap_fits p s
  | declareLineMode => exact declareLineMode_fits p s
  | readLineStatus => exact readLineStatus_fits p s
  | setRate => exact setRate_fits p s
  | closePeriod => exact closePeriod_fits p s
  | listClosed => exact listClosed_fits p s hs
  | readClosed => exact readClosed_fits p s
  | releaseClosed => exact releaseClosed_fits p s
  | readOpen => exact readOpen_fits p s
  | loadClock => exact loadClock_fits p s
  | stepClock => exact stepClock_fits p s
  | readClock => exact readClock_fits p s
  | armTrigger => exact armTrigger_fits p s
  | disarmTrigger => exact disarmTrigger_fits p s
  | readTriggers => exact readTriggers_fits p s
  | setLink => exact setLink_fits p s
  | readLinkStats => exact readLinkStats_fits p s
  | setRehearse => exact setRehearse_fits p s
  | injectReport => exact injectReport_fits p s
  | takeNotices => exact takeNotices_fits p s
  | setNoticeMask => exact setNoticeMask_fits p s
  | setWatermark => exact setWatermark_fits p s
  | readAttention => exact readAttention_fits p s
  | clearAttention => exact clearAttention_fits p s
  | setAttention => exact setAttention_fits p s
  | commit => exact commitReq_fits p s
  | suspend => exact suspendReq_fits p s
  | lineReset => exact lineResetReq_fits p s
  | identify => exact identifyReq_fits p s
  | restart => exact restartReq_fits p s
  | _ => cases h

/-! ## The responses -/

/-- A sound store, and a response that fits, if one is being sent. -/
def State.RespondsWithin (s : State) : Prop := s.storeSound ∧ ∀ r, s.host.sending = some r → r.payload.length ≤ 254

theorem State.RespondsWithin.respond {s : State} {r : Reply} (hs : s.storeSound) (hr : r.Fits) (kind : Byte) :
    (s.respond kind r).RespondsWithin := ⟨hs, fun r' hr' => by cases hr'; exact hr⟩

/-- The other ways of a request start no response of their own. -/
theorem request_respondsWithin {i : Instr} {kind : Byte} {lengths : List Nat} {p : List Byte} {s : State}
    (h : requestForm i = some (kind, lengths, p)) (hs : s.RespondsWithin) :
    (s.request kind lengths (requestBlock i) p).RespondsWithin := by
  obtain ⟨hstore, hsending⟩ := hs
  unfold State.request
  split
  · exact ⟨hstore, hsending⟩
  · split
    · exact ⟨hstore, hsending⟩
    · split
      · exact .respond ((Settles.request i p s).storeSound hstore) (requestBlock_fits h hstore) kind
      · exact .respond hstore (Reply.refuse_fits .badLength) kind

theorem hostUnknownKind_respondsWithin {s : State} (kind : Byte) (hs : s.RespondsWithin) : (hostUnknownKind kind s).RespondsWithin := by
  unfold hostUnknownKind
  split
  · exact hs
  · exact .respond hs.1 (Reply.refuse_fits .unknownKind) kind

/-- An event that brings no request starts no response. -/
theorem event_sending {i : Instr} {s t : State} (hf : requestForm i = none) (hc : carriesAny i = false) (he : exec i s = .next t) :
    t.host.sending = s.host.sending := by
  rcases event_touch hf hc he with htouch | rfl | rfl | rfl | rfl | ⟨a, b, rfl⟩
  · rw [htouch.frame.host]
  · cases he
    unfold State.tickRunClock
    split
    all_goals rfl
  · cases he
    unfold State.advancePlant
    repeat' split
    all_goals rfl
  · cases he
    unfold State.limitPlant
    repeat' split
    all_goals rfl
  · cases he
    unfold State.takeRelease
    split
    all_goals rfl
  · cases he
    unfold State.takeStartUpEnd
    split
    all_goals rfl

/-- Settles O12: every reply fits, and a state without a response stays within the bound through any command. -/
theorem responsesFitTheirFrame : Obligations.ResponsesFitTheirFrame := by
  intro i s t r hstore hnone he hr
  have hs : s.RespondsWithin := ⟨hstore, fun r' hr' => nomatch hnone.symm.trans hr'⟩
  have hbyte : ∀ b, (s.takeHostByte b).RespondsWithin := State.takeHostByte_keeps (fun _ _ h => h)
    (fun kind _ => hostUnknownKind_respondsWithin kind) (fun _ _ _ _ _ => request_respondsWithin) hs
  have hgap : s.takeHostGap.RespondsWithin := State.takeHostGap_keeps (fun _ _ h => h)
    (fun kind _ => hostUnknownKind_respondsWithin kind) (fun _ _ _ _ _ => request_respondsWithin) hs
  cases hf : requestForm i with
  | some f =>
    obtain ⟨kind, lengths, p⟩ := f
    rw [exec_request hf] at he
    cases he
    exact (request_respondsWithin hf hs).2 r hr
  | none =>
    cases hc : carriesAny i with
    | false =>
      rw [event_sending hf hc he, hnone] at hr
      cases hr
    | true =>
      cases i with
      | hostByteReceived b =>
        cases he
        exact (hbyte b).2 r hr
      | hostCharacterGapExpiry =>
        cases he
        exact hgap.2 r hr
      | responseSent =>
        cases he
        have hsame : s.takeResponseSent = s := by simp only [State.takeResponseSent, hnone]
        rw [hsame, hnone] at hr
        cases hr
      | resetPin =>
        cases he
        cases hr
      | _ => cases hc

end Sys2Proof.Machine
end

section
/-! What the operations of the blocks do does not depend on the host link: each commutes with a change of it. -/

namespace Sys2Proof.Machine

/-- The state with another host link. -/
def State.withHost (s : State) (h : HostLink) : State := { s with host := h }

section
variable {s : State} {h : HostLink} {l : Fin 8} {r : Station}

/-! ## What is read is the same -/

@[simp] theorem State.withHost_partState : (s.withHost h).partState = s.partState := rfl
@[simp] theorem State.withHost_runClock : (s.withHost h).runClock = s.runClock := rfl
@[simp] theorem State.withHost_store : (s.withHost h).store = s.store := rfl
@[simp] theorem State.withHost_periodCounter : (s.withHost h).periodCounter = s.periodCounter := rfl
@[simp] theorem State.withHost_snapshot : (s.withHost h).snapshot = s.snapshot := rfl
@[simp] theorem State.withHost_stations : (s.withHost h).stations = s.stations := rfl
@[simp] theorem State.withHost_causeMap : (s.withHost h).causeMap = s.causeMap := rfl
@[simp] theorem State.withHost_journal : (s.withHost h).journal = s.journal := rfl
@[simp] theorem State.withHost_line? : (s.withHost h).line? l = s.line? l := rfl
@[simp] theorem State.withHost_live? : (s.withHost h).live? l = s.live? l := rfl
@[simp] theorem State.withHost_station? {n : Nat} : (s.withHost h).station? n = s.station? n := rfl
@[simp] theorem State.withHost_rehearsing : (s.withHost h).rehearsing l = s.rehearsing l := rfl
@[simp] theorem State.withHost_plantTime : (s.withHost h).plantTime = s.plantTime := rfl
@[simp] theorem State.withHost_plantNow : (s.withHost h).plantNow = s.plantNow := rfl
@[simp] theorem State.withHost_openNumber : (s.withHost h).openNumber l = s.openNumber l := rfl
@[simp] theorem State.withHost_newestDisplaced : (s.withHost h).newestDisplaced l = s.newestDisplaced l := rfl
@[simp] theorem State.withHost_periodEmpty : (s.withHost h).periodEmpty l = s.periodEmpty l := rfl
@[simp] theorem State.withHost_walk : (s.withHost h).walk l = s.walk l := rfl
@[simp] theorem State.withHost_stored {n : BitVec 32} : (s.withHost h).stored l n = s.stored l n := rfl
@[simp] theorem State.withHost_configFault : (s.withHost h).configFault = s.configFault := rfl

/-! ## The shapes of an operation: a choice, an act on a live line, acts in turn -/

/-- A choice that both sides make alike. -/
theorem State.withHost_ite {c : Prop} [Decidable c] {a b a' b' : State} (ha : a' = a.withHost h) (hb : b' = b.withHost h) :
    (if c then a' else b') = (if c then a else b).withHost h := by
  rw [ha, hb, ← apply_ite (State.withHost · h)]

theorem State.withHost_withLive {k k' : Line → Live → State} (hk : ∀ ln lv, k' ln lv = (k ln lv).withHost h) :
    (s.withHost h).withLive l k' = (s.withLive l k).withHost h := by
  unfold State.withLive
  rw [State.withHost_line?]
  cases s.line? l with
  | none => rfl
  | some ln =>
    dsimp only
    cases ln.live with
    | none => rfl
    | some lv => exact hk ln lv

theorem State.withHost_foldl {α : Type} {f : State → α → State} (hf : ∀ t a, f (t.withHost h) a = (f t a).withHost h) (as : List α) (s : State) :
    as.foldl f (s.withHost h) = (as.foldl f s).withHost h := by
  induction as generalizing s with
  | nil => rfl
  | cons a as ih => rw [List.foldl_cons, List.foldl_cons, hf, ih]

/-! ## The updates of the state's parts -/

@[simp] theorem State.withHost_setLine {x : Option Line} : (s.withHost h).setLine l x = (s.setLine l x).withHost h := rfl
@[simp] theorem State.withHost_updLine {f : Line → Line} : (s.withHost h).updLine l f = (s.updLine l f).withHost h := rfl
@[simp] theorem State.withHost_updLive {f : Live → Live} : (s.withHost h).updLive l f = (s.updLive l f).withHost h := rfl
@[simp] theorem State.withHost_updStation {n : Nat} {f : Station → Station} :
    (s.withHost h).updStation n f = (s.updStation n f).withHost h := rfl
@[simp] theorem State.withHost_updStationsOf {f : Station → Station} :
    (s.withHost h).updStationsOf l f = (s.updStationsOf l f).withHost h := rfl
@[simp] theorem State.withHost_updLink {k : Fin 4} {f : Link → Link} : (s.withHost h).updLink k f = (s.updLink k f).withHost h := rfl
@[simp] theorem State.withHost_updTrigger {k : Fin 8} {f : Trigger → Trigger} :
    (s.withHost h).updTrigger k f = (s.updTrigger k f).withHost h := rfl
@[simp] theorem State.withHost_latch {f : AttentionFlag} : (s.withHost h).latch f = (s.latch f).withHost h := rfl

@[simp] theorem State.withHost_notify {o : Option (Fin 8)} {n : NoticeBody} :
    (s.withHost h).notify o n = (s.notify o n).withHost h := State.withHost_ite rfl (State.withHost_ite rfl rfl)

@[simp] theorem State.withHost_countUp_fst {n : Nat} : ((s.withHost h).countUp n).1 = (s.countUp n).1 := by
  unfold State.countUp
  split
  · rfl
  · rfl

@[simp] theorem State.withHost_countUp_snd {n : Nat} : ((s.withHost h).countUp n).2 = (s.countUp n).2.withHost h := by
  unfold State.countUp
  split
  · rfl
  · rfl

@[simp] theorem State.withHost_takePeriodNumber_fst : ((s.withHost h).takePeriodNumber l).1 = (s.takePeriodNumber l).1 := by
  simp [State.takePeriodNumber]

@[simp] theorem State.withHost_takePeriodNumber_snd :
    ((s.withHost h).takePeriodNumber l).2 = (s.takePeriodNumber l).2.withHost h := by
  simp only [State.takePeriodNumber, State.withHost_periodCounter, State.withHost_countUp_fst, State.withHost_countUp_snd]
  rfl

/-! ## The Count and Rate Unit -/

@[simp] theorem State.withHost_discontinuity {c : CounterName} {why : DiscontinuityReason} :
    (s.withHost h).discontinuity r c why = (s.discontinuity r c why).withHost h := by simp [State.discontinuity]

@[simp] theorem State.withHost_judgeCounter {c : CounterName} {allowed delta : Nat} {credit : Live → Live} :
    (s.withHost h).judgeCounter r c allowed delta credit = (s.judgeCounter r c allowed delta credit).withHost h :=
  State.withHost_ite rfl State.withHost_discontinuity

@[simp] theorem State.withHost_takeCounters {previous : Option Tick} {v : Counters} {restart : Bool} :
    (s.withHost h).takeCounters r previous v restart = (s.takeCounters r previous v restart).withHost h := by
  unfold State.takeCounters
  refine (congrArg (fun t : State => t.updStation _ _) ?_).trans State.withHost_updStation
  cases r.baselines with
  | none => rfl
  | some b =>
    refine State.withHost_ite State.withHost_discontinuity (State.withHost_ite State.withHost_discontinuity ?_)
    simp

/-! ## The Line Tracker -/

@[simp] theorem State.withHost_closeStoppage {st : Stoppage} {why : StopReason} :
    (s.withHost h).closeStoppage l st why = (s.closeStoppage l st why).withHost h := by simp [State.closeStoppage]

@[simp] theorem State.withHost_reattribute {st : Stoppage} {root : Root} :
    (s.withHost h).reattribute l st root = (s.reattribute l st root).withHost h := by simp [State.reattribute]

@[simp] theorem State.withHost_walkAgain : (s.withHost h).walkAgain l = (s.walkAgain l).withHost h :=
  State.withHost_withLive fun _ lv => by
    dsimp only
    cases lv.condition with
    | candidate c => exact State.withHost_ite rfl rfl
    | stopped st => exact State.withHost_ite rfl State.withHost_reattribute
    | _ => rfl

@[simp] theorem State.withHost_confirmRestart : (s.withHost h).confirmRestart l = (s.confirmRestart l).withHost h :=
  State.withHost_withLive fun _ lv => by
    dsimp only [State.withHost_runClock]
    cases lv.condition with
    | restarting st restart confirm => exact State.withHost_ite (State.withHost_notify (s := s.updLive l _)) rfl
    | _ => rfl

@[simp] theorem State.withHost_startRestart {d : LineDef} {st : Stoppage} {x : Tick} :
    (s.withHost h).startRestart l d st x = (s.startRestart l d st x).withHost h := by simp [State.startRestart]

@[simp] theorem State.withHost_relapse {st : Stoppage} {x : Tick} :
    (s.withHost h).relapse l st x = (s.relapse l st x).withHost h := by simp [State.relapse]

@[simp] theorem State.withHost_abandon : (s.withHost h).abandon l = (s.abandon l).withHost h :=
  State.withHost_withLive fun _ lv => by
    cases lv.condition.stoppage? with
    | none => rfl
    | some st => exact State.withHost_notify

@[simp] theorem State.withHost_offerReport {x : Tick} : (s.withHost h).offerReport l r x = (s.offerReport l r x).withHost h :=
  State.withHost_withLive fun ln lv => by
    dsimp only
    cases ln.mode with
    | scheduled =>
      dsimp only
      cases lv.condition with
      | unobserved => exact State.withHost_ite rfl rfl
      | producing => exact State.withHost_ite rfl rfl
      | candidate c => exact State.withHost_ite rfl State.withHost_walkAgain
      | stopped st => exact State.withHost_ite State.withHost_startRestart State.withHost_walkAgain
      | restarting st _ _ => exact State.withHost_ite State.withHost_relapse rfl
      | _ => rfl
    | _ => rfl

@[simp] theorem State.withHost_loseConstraint {d : LineDef} {lv : Live} :
    (s.withHost h).loseConstraint l d lv = (s.loseConstraint l d lv).withHost h := by
  unfold State.loseConstraint
  dsimp only
  cases lv.condition with
  | stopped st => simp
  | restarting st _ _ => simp
  | _ => rfl

@[simp] theorem State.withHost_offerSilent : (s.withHost h).offerSilent l r = (s.offerSilent l r).withHost h :=
  State.withHost_withLive fun ln lv => by
    cases ln.mode with
    | scheduled => exact State.withHost_ite State.withHost_loseConstraint State.withHost_walkAgain
    | _ => rfl

@[simp] theorem State.withHost_offerBypass : (s.withHost h).offerBypass l = (s.offerBypass l).withHost h :=
  State.withHost_withLive fun ln _ => by
    cases ln.mode with
    | scheduled => exact State.withHost_walkAgain
    | _ => rfl

/-! ## Closes -/

@[simp] theorem State.withHost_restartAccruals {t : Tick} : (s.withHost h).restartAccruals l t = (s.restartAccruals l t).withHost h := rfl

@[simp] theorem State.withHost_place {c : ClosedRecord} : (s.withHost h).place l c = (s.place l c).withHost h :=
  congrArg (State.latch · .period) (State.withHost_notify (s := { s with store := s.store.set l (placeIn s.store[l] c) }))

@[simp] theorem State.withHost_openNext {ln : Line} {lv : Live} : (s.withHost h).openNext l ln lv = (s.openNext l ln lv).withHost h := by
  simp [State.openNext]

@[simp] theorem State.withHost_closeLine {why : CloseReason} : (s.withHost h).closeLine l why = (s.closeLine l why).withHost h :=
  State.withHost_withLive fun _ _ => by simp

@[simp] theorem State.withHost_resetLine : (s.withHost h).resetLine l = (s.resetLine l).withHost h := by simp [State.resetLine]

/-! ## Reports and misses -/

@[simp] theorem State.withHost_recategorize {old new : Station} :
    (s.withHost h).recategorize old new = (s.recategorize old new).withHost h := State.withHost_ite rfl rfl

@[simp] theorem State.withHost_applyReport {rep : Report} : (s.withHost h).applyReport r rep = (s.applyReport r rep).withHost h := by
  have hheard : ∀ (t : State) o n, (if r.linkState = .silent then (t.withHost h).notify o n else t.withHost h)
      = (if r.linkState = .silent then t.notify o n else t).withHost h := fun _ _ _ => State.withHost_ite State.withHost_notify rfl
  simp only [State.applyReport, State.withHost_runClock, State.withHost_live?, State.withHost_updStation, hheard,
    State.withHost_recategorize, State.withHost_takeCounters, State.withHost_offerReport]
  exact State.withHost_ite rfl rfl

@[simp] theorem State.withHost_goodReply {rep : Report} : (s.withHost h).goodReply r rep = (s.goodReply r rep).withHost h := by
  unfold State.goodReply
  cases r.linkState with
  | silent => exact State.withHost_ite State.withHost_applyReport rfl
  | _ => exact State.withHost_applyReport

@[simp] theorem State.withHost_declareSilent : (s.withHost h).declareSilent r = (s.declareSilent r).withHost h := by
  simp [State.declareSilent]

@[simp] theorem State.withHost_miss : (s.withHost h).miss r = (s.miss r).withHost h := by
  unfold State.miss
  cases r.linkState with
  | reporting => exact State.withHost_ite State.withHost_declareSilent rfl
  | _ => rfl

/-! ## Line modes -/

@[simp] theorem State.withHost_settleScheduled : (s.withHost h).settleScheduled l = (s.settleScheduled l).withHost h :=
  State.withHost_withLive fun _ lv => by
    dsimp only
    cases lv.condition with
    | stopped st => simp
    | restarting st _ _ => simp
    | _ => rfl

@[simp] theorem State.withHost_endDeclared : (s.withHost h).endDeclared l = (s.endDeclared l).withHost h := rfl

@[simp] theorem State.withHost_enterDeclared {m : Mode} : (s.withHost h).enterDeclared l m = (s.enterDeclared l m).withHost h := rfl

@[simp] theorem State.withHost_recordProduct {target : Nat} :
    (s.withHost h).recordProduct l target = (s.recordProduct l target).withHost h :=
  State.withHost_withLive (s := s.updLine l _) (h := h) fun _ _ =>
    State.withHost_ite rfl (State.withHost_closeLine (s := s.updLine l _))

@[simp] theorem State.withHost_resumeScheduled : (s.withHost h).resumeScheduled l = (s.resumeScheduled l).withHost h := rfl

@[simp] theorem State.withHost_returnScheduled {held : Mode} :
    (s.withHost h).returnScheduled l held = (s.returnScheduled l held).withHost h := by
  cases held with
  | changeover cause target allowance => simp [State.returnScheduled]
  | _ => rfl

@[simp] theorem State.withHost_declare {m : Mode} : (s.withHost h).declare l m = (s.declare l m).withHost h := by
  have henter : ((s.withHost h).settleScheduled l).enterDeclared l m = ((s.settleScheduled l).enterDeclared l m).withHost h := by simp
  unfold State.declare
  rw [State.withHost_line?]
  cases s.line? l with
  | none => rfl
  | some ln =>
    dsimp only
    cases ln.mode with
    | scheduled =>
      cases m with
      | scheduled => rfl
      | _ => exact henter
    | changeover =>
      cases m with
      | scheduled => exact State.withHost_returnScheduled
      | _ => rfl
    | _ =>
      cases m with
      | _ => rfl

/-! ## Triggers and the Plant Clock -/

/-- A state and an answer, the state with another host link. -/
def pairWithHost {α : Type} (h : HostLink) (a : State × α) : State × α := (a.1.withHost h, a.2)

theorem pairWithHost_ite {α : Type} {c : Prop} [Decidable c] {a b a' b' : State × α} (ha : a' = pairWithHost h a) (hb : b' = pairWithHost h b) :
    (if c then a' else b') = pairWithHost h (if c then a else b) := by
  rw [ha, hb, ← apply_ite (pairWithHost h)]

theorem pairWithHost_foldl {α β : Type} {f : State × α → β → State × α} (hf : ∀ a b, f (pairWithHost h a) b = pairWithHost h (f a b))
    (bs : List β) (a : State × α) : bs.foldl f (pairWithHost h a) = pairWithHost h (bs.foldl f a) := by
  induction bs generalizing a with
  | nil => rfl
  | cons b bs ih => rw [List.foldl_cons, List.foldl_cons, hf, ih]

theorem closeOne_pairWithHost (set : BitVec 8) (a : State × BitVec 8) (l : Fin 8) :
    closeOne set (pairWithHost h a) l = pairWithHost h (closeOne set a l) :=
  pairWithHost_ite (congrArg (·, _) State.withHost_closeLine) rfl

@[simp] theorem State.withHost_closeSet {set : BitVec 8} : (s.withHost h).closeSet set = pairWithHost h (s.closeSet set) :=
  pairWithHost_foldl (closeOne_pairWithHost set) allLines (s, 0#8)

@[simp] theorem State.withHost_fireTrigger {k : Fin 8} {seconds : Nat} {moved : Bool} :
    (s.withHost h).fireTrigger k seconds moved = (s.fireTrigger k seconds moved).withHost h := by
  have ht : (s.withHost h).trigger k = s.trigger k := rfl
  simp [State.fireTrigger, ht, pairWithHost]

theorem examineOne_pairWithHost (seconds : Nat) (a : State × BitVec 8) (k : Fin 8) :
    examineOne seconds (pairWithHost h a) k = pairWithHost h (examineOne seconds a k) :=
  pairWithHost_ite (congrArg (·, _) State.withHost_fireTrigger) rfl

@[simp] theorem State.withHost_movePlant {old : Nat} {new : PlantClock} :
    (s.withHost h).movePlant old new = pairWithHost h (s.movePlant old new) :=
  pairWithHost_ite (pairWithHost_foldl (examineOne_pairWithHost new.seconds) allTriggers ({ s with plant := some new }, 0#8)) rfl

/-! ## Rehearsal, the Journal and the part states -/

@[simp] theorem State.withHost_changeRehearsal {on : Bool} :
    (s.withHost h).changeRehearsal l on = (s.changeRehearsal l on).withHost h := by simp [State.changeRehearsal]

@[simp] theorem State.withHost_dropNotices {n : Nat} : (s.withHost h).dropNotices n = (s.dropNotices n).withHost h := rfl

@[simp] theorem State.withHost_queueGap : (s.withHost h).queueGap = s.queueGap.withHost h := State.withHost_ite rfl rfl

@[simp] theorem State.withHost_enterLine : (s.withHost h).enterLine l = (s.enterLine l).withHost h := by
  unfold State.enterLine
  rw [State.withHost_line?]
  cases s.line? l with
  | none => rfl
  | some ln => simp

@[simp] theorem State.withHost_enterLink {k : Fin 4} : (s.withHost h).enterLink k = (s.enterLink k).withHost h :=
  State.withHost_ite rfl rfl

@[simp] theorem State.withHost_enterMonitoring : (s.withHost h).enterMonitoring = s.enterMonitoring.withHost h := by
  rw [State.enterMonitoring_eq, State.enterMonitoring_eq, ← State.withHost_foldl (fun _ _ => State.withHost_enterLink),
    ← State.withHost_foldl (fun _ _ => State.withHost_enterLine)]
  rfl

@[simp] theorem State.withHost_discardLive : (s.withHost h).discardLive l = (s.discardLive l).withHost h := rfl

@[simp] theorem State.withHost_suspendLine : (s.withHost h).suspendLine l = (s.suspendLine l).withHost h := by
  unfold State.suspendLine
  rw [State.withHost_live?]
  cases s.live? l with
  | none => rfl
  | some lv => simp

end
end Sys2Proof.Machine
end

section
/-! A request's block does the same, and answers the same, whatever the host link is. -/

namespace Sys2Proof.Machine

/-- The block's act and answer do not depend on the host link. -/
def HostFree (block : List Byte → State → State × Reply) : Prop :=
  ∀ p s h, block p (s.withHost h) = pairWithHost h (block p s)

section
variable {s : State} {h : HostLink} {l : Fin 8}

/-! ## Commands about lines and stations -/

theorem defineLine_hostFree : HostFree defineLine := fun p s h => by
  unfold defineLine
  rw [State.withHost_partState]
  cases s.partState with
  | monitoring => rfl
  | configuring =>
    dsimp only
    cases lineNo (u8 p 0) with
    | none => rfl
    | some l =>
      dsimp only
      cases (lineDefOf p).failing with
      | _ => rfl

theorem undefineLine_hostFree : HostFree undefineLine := fun p s h => by
  unfold undefineLine
  rw [State.withHost_partState]
  cases s.partState with
  | monitoring => rfl
  | configuring =>
    dsimp only
    cases lineNo (u8 p 0) with
    | none => rfl
    | some l =>
      dsimp only [State.withHost_line?]
      cases s.line? l with
      | none => rfl
      | some ln => exact pairWithHost_ite rfl rfl

theorem enrollStation_hostFree : HostFree enrollStation := fun p s h => by
  unfold enrollStation
  rw [State.withHost_partState]
  cases s.partState with
  | monitoring => rfl
  | configuring =>
    dsimp only
    split
    · next k l _ _ _ =>
      dsimp only [State.withHost_line?, State.withHost_stations]
      cases s.line? l with
      | none => rfl
      | some ln =>
        dsimp only
        cases collision s.stations _ with
        | none => exact pairWithHost_ite rfl rfl
        | some which => rfl
    · rfl

theorem removeStation_hostFree : HostFree removeStation := fun p s h => by
  unfold removeStation
  dsimp only [State.withHost_partState, State.withHost_station?]
  cases s.partState with
  | monitoring => rfl
  | configuring =>
    refine pairWithHost_ite rfl ?_
    cases s.station? (u8 p 0) with
    | _ => rfl

theorem bypassStation_hostFree : HostFree bypassStation := fun p s h => by
  unfold bypassStation
  dsimp only [State.withHost_station?]
  refine pairWithHost_ite rfl ?_
  cases s.station? (u8 p 0) with
  | none => rfl
  | some r => exact pairWithHost_ite rfl (pairWithHost_ite rfl (congrArg (·, _) (State.withHost_offerBypass (s := s.updStation _ _))))

theorem readStation_hostFree : HostFree readStation := fun p s h => by
  unfold readStation
  dsimp only [State.withHost_station?]
  refine pairWithHost_ite rfl ?_
  cases s.station? (u8 p 0) with
  | _ => rfl

theorem mapCause_hostFree : HostFree mapCause := fun p s h => by
  unfold mapCause
  cases causeEntryOf p with
  | none => rfl
  | some e => exact pairWithHost_ite rfl (pairWithHost_ite rfl rfl)

theorem unmapCause_hostFree : HostFree unmapCause := fun p s h => by
  unfold unmapCause
  cases causeKey p with
  | none => rfl
  | some key =>
    dsimp only [State.withHost_causeMap]
    cases mapEntry s.causeMap key.1 key.2.1 key.2.2 with
    | _ => rfl

theorem readMap_hostFree : HostFree readMap := fun _ _ _ => pairWithHost_ite rfl rfl

theorem declareLineMode_hostFree : HostFree declareLineMode := fun p s h => by
  unfold declareLineMode
  refine pairWithHost_ite rfl ?_
  cases lineNo (u8 p 0) with
  | none => rfl
  | some l =>
    dsimp only [State.withHost_line?]
    cases s.line? l with
    | none => rfl
    | some ln =>
      dsimp only
      cases modeOf (u8 p 1) (u8 p 2) (u16 p 3) (u32 p 5) with
      | none => rfl
      | some m => exact congrArg (·, _) State.withHost_declare

theorem readLineStatus_hostFree : HostFree readLineStatus := fun p s h => by
  unfold readLineStatus
  cases lineNo (u8 p 0) with
  | none => rfl
  | some l =>
    dsimp only [State.withHost_line?]
    cases s.line? l with
    | _ => rfl

theorem setRate_hostFree : HostFree setRate := fun p s h => by
  unfold setRate
  refine pairWithHost_ite rfl ?_
  cases lineNo (u8 p 0) with
  | none => rfl
  | some l =>
    dsimp only [State.withHost_line?]
    cases s.line? l with
    | none => rfl
    | some ln => exact pairWithHost_ite rfl (pairWithHost_ite rfl (pairWithHost_ite rfl (pairWithHost_ite rfl rfl)))

/-! ## Commands about periods -/

theorem closePeriod_hostFree : HostFree closePeriod := fun p s h => by
  unfold closePeriod
  refine pairWithHost_ite rfl ?_
  cases lineNo (u8 p 0) with
  | none => rfl
  | some l =>
    dsimp only [State.withHost_line?]
    cases s.line? l with
    | none => rfl
    | some ln =>
      refine pairWithHost_ite rfl ?_
      simp [pairWithHost]

theorem listClosed_hostFree : HostFree listClosed := fun p s h => by
  unfold listClosed
  cases lineNo (u8 p 0) with
  | _ => rfl

theorem readClosed_hostFree : HostFree readClosed := fun p s h => by
  unfold readClosed
  cases lineNo (u8 p 0) with
  | none => rfl
  | some l =>
    refine pairWithHost_ite rfl ?_
    dsimp only [State.withHost_stored]
    cases s.stored l _ with
    | none => rfl
    | some c => exact pairWithHost_ite rfl rfl

theorem releaseClosed_hostFree : HostFree releaseClosed := fun p s h => by
  unfold releaseClosed
  cases lineNo (u8 p 0) with
  | none => rfl
  | some l =>
    dsimp only [State.withHost_stored]
    cases s.stored l _ with
    | _ => rfl

theorem readOpen_hostFree : HostFree readOpen := fun p s h => by
  unfold readOpen
  cases lineNo (u8 p 0) with
  | none => rfl
  | some l =>
    refine pairWithHost_ite rfl (pairWithHost_ite (pairWithHost_ite rfl ?_) ?_)
    · dsimp only [State.withHost_live?]
      cases s.live? l with
      | _ => rfl
    · dsimp only [State.withHost_snapshot]
      cases s.snapshot with
      | none => rfl
      | some c => exact pairWithHost_ite (pairWithHost_ite rfl rfl) rfl

/-! ## Commands about clocks, triggers and links -/

theorem loadClock_hostFree : HostFree loadClock := fun p s h => by
  unfold loadClock
  dsimp only [State.withHost_plantNow, State.withHost_runClock]
  cases s.plantNow with
  | none => rfl
  | some old => simp [pairWithHost]

theorem stepClock_hostFree : HostFree stepClock := fun p s h => by
  unfold stepClock
  dsimp only [State.withHost_plantNow]
  refine pairWithHost_ite rfl ?_
  cases s.plantNow with
  | none => rfl
  | some old =>
    refine pairWithHost_ite rfl (pairWithHost_ite rfl ?_)
    simp [pairWithHost]

theorem armTrigger_hostFree : HostFree armTrigger := fun p s h => by
  unfold armTrigger
  split
  · dsimp only [State.withHost_plantNow]
    cases s.plantNow with
    | none => rfl
    | some c => exact pairWithHost_ite rfl rfl
  · rfl
  · rfl

theorem disarmTrigger_hostFree : HostFree disarmTrigger := fun p s h => by
  unfold disarmTrigger
  cases lineNo (u8 p 0) with
  | _ => rfl

theorem setLink_hostFree : HostFree setLink := fun p s h => by
  unfold setLink
  rw [State.withHost_partState]
  cases s.partState with
  | monitoring => rfl
  | configuring =>
    dsimp only
    cases setLinkFailing p with
    | some field => rfl
    | none =>
      dsimp only
      split
      · rfl
      · rfl
      · rfl
      · rfl

theorem readLinkStats_hostFree : HostFree readLinkStats := fun p s h => by
  unfold readLinkStats
  cases linkNo (u8 p 0) with
  | none => rfl
  | some k => exact pairWithHost_ite rfl (pairWithHost_ite rfl rfl)

/-! ## Commands about rehearsal -/

theorem setRehearse_hostFree : HostFree setRehearse := fun p s h => by
  unfold setRehearse
  rw [State.withHost_partState]
  cases s.partState with
  | configuring => rfl
  | monitoring =>
    dsimp only
    split
    · next l on _ _ =>
      dsimp only [State.withHost_line?]
      cases s.line? l with
      | none => rfl
      | some ln =>
        refine pairWithHost_ite rfl ?_
        simp [pairWithHost]
    · rfl
    · rfl

theorem injectReport_hostFree : HostFree injectReport := fun p s h => by
  have hact : ∀ (miss : Bool) r rep, (if miss = true then (s.withHost h).miss r else (s.withHost h).goodReply r rep)
      = (if miss = true then s.miss r else s.goodReply r rep).withHost h := fun _ _ _ =>
    State.withHost_ite State.withHost_miss State.withHost_goodReply
  unfold injectReport
  rw [State.withHost_partState]
  cases s.partState with
  | configuring => rfl
  | monitoring =>
    dsimp only
    split
    · dsimp only [State.withHost_station?]
      cases s.station? (u8 p 0) with
      | none => rfl
      | some r =>
        refine pairWithHost_ite ?_ rfl
        rw [hact]
        rfl
    · rfl
    · rfl

/-! ## Commands about notices and attention -/

theorem takeNotices_hostFree : HostFree takeNotices := fun p s h => by
  refine pairWithHost_ite rfl (pairWithHost_ite rfl ?_)
  simp [pairWithHost]

theorem setNoticeMask_hostFree : HostFree setNoticeMask := fun _ _ _ => pairWithHost_ite rfl rfl

theorem setWatermark_hostFree : HostFree setWatermark := fun _ _ _ => pairWithHost_ite rfl rfl

theorem clearAttention_hostFree : HostFree clearAttention := fun _ _ _ => pairWithHost_ite rfl rfl

theorem setAttention_hostFree : HostFree setAttention := fun p s h => by
  refine pairWithHost_ite rfl ?_
  cases NoticeMode.ofCode (u8 p 1) with
  | _ => rfl

/-! ## Commands about the part state -/

theorem State.withHost_suspendAll : (s.withHost h).suspendAll = s.suspendAll.withHost h := by
  have hlines : (s.withHost h).linesSuspended = s.linesSuspended.withHost h :=
    State.withHost_foldl (fun _ _ => State.withHost_suspendLine) allLines s
  rw [State.suspendAll_eq, State.suspendAll_eq, hlines]
  generalize s.linesSuspended = t
  rfl

theorem commitReq_hostFree : HostFree commitReq := fun p s h => by
  unfold commitReq
  dsimp only [State.withHost_partState, State.withHost_configFault]
  cases s.partState with
  | monitoring => rfl
  | configuring =>
    dsimp only
    cases s.configFault with
    | some f => rfl
    | none =>
      dsimp only
      rw [State.withHost_enterMonitoring]
      generalize s.enterMonitoring = t
      rfl

theorem suspendReq_hostFree : HostFree suspendReq := fun p s h => by
  unfold suspendReq
  dsimp only [State.withHost_partState]
  cases s.partState with
  | configuring => rfl
  | monitoring =>
    dsimp only
    rw [State.withHost_suspendAll]
    generalize s.suspendAll = t
    rfl

theorem lineResetReq_hostFree : HostFree lineResetReq := fun p s h => by
  unfold lineResetReq
  dsimp only [State.withHost_partState]
  cases s.partState with
  | configuring => rfl
  | monitoring =>
    dsimp only
    cases lineNo (u8 p 0) with
    | none => rfl
    | some l =>
      dsimp only [State.withHost_line?]
      cases s.line? l with
      | none => rfl
      | some ln => simp [pairWithHost]

end

/-! ## Every block -/

theorem requestBlock_hostFree (i : Instr) : HostFree (requestBlock i) := by
  cases i with
  | defineLine => exact defineLine_hostFree
  | undefineLine => exact undefineLine_hostFree
  | enrollStation => exact enrollStation_hostFree
  | removeStation => exact removeStation_hostFree
  | bypassStation => exact bypassStation_hostFree
  | readStation => exact readStation_hostFree
  | mapCause => exact mapCause_hostFree
  | unmapCause => exact unmapCause_hostFree
  | readMap => exact readMap_hostFree
  | declareLineMode => exact declareLineMode_hostFree
  | readLineStatus => exact readLineStatus_hostFree
  | setRate => exact setRate_hostFree
  | closePeriod => exact closePeriod_hostFree
  | listClosed => exact listClosed_hostFree
  | readClosed => exact readClosed_hostFree
  | releaseClosed => exact releaseClosed_hostFree
  | readOpen => exact readOpen_hostFree
  | loadClock => exact loadClock_hostFree
  | stepClock => exact stepClock_hostFree
  | armTrigger => exact armTrigger_hostFree
  | disarmTrigger => exact disarmTrigger_hostFree
  | setLink => exact setLink_hostFree
  | readLinkStats => exact readLinkStats_hostFree
  | setRehearse => exact setRehearse_hostFree
  | injectReport => exact injectReport_hostFree
  | takeNotices => exact takeNotices_hostFree
  | setNoticeMask => exact setNoticeMask_hostFree
  | setWatermark => exact setWatermark_hostFree
  | clearAttention => exact clearAttention_hostFree
  | setAttention => exact setAttention_hostFree
  | commit => exact commitReq_hostFree
  | suspend => exact suspendReq_hostFree
  | lineReset => exact lineResetReq_hostFree
  | _ => exact fun _ _ _ => rfl

end Sys2Proof.Machine
end

section
/-! The receiver that hunts over bytes at once does as it does when they arrive one by one (R182). -/

namespace Sys2Proof.Machine

/-! ## A frame is taken alike by every receiver that is not idle -/

section
variable {s : State} {ρ : Receiver}

theorem State.putReceiver_eq (s : State) (ρ : Receiver) : s.putReceiver ρ = s.withHost { s.host with receiver := ρ } := rfl

theorem requestBlock_putReceiver (i : Instr) (p : List Byte) (s : State) (ρ : Receiver) :
    requestBlock i p (s.putReceiver ρ) = ((requestBlock i p s).1.putReceiver ρ, (requestBlock i p s).2) := by
  have hhost : (requestBlock i p s).1.host = s.host := (Settles.request i p s).sameHost.host
  rw [State.putReceiver_eq, State.putReceiver_eq, hhost]
  exact requestBlock_hostFree i p s _

theorem State.request_putReceiver (i : Instr) (kind : Byte) (lengths : List Nat) (p : List Byte) (hs : s.host.receiver ≠ .idle) (hρ : ρ ≠ .idle) :
    (s.putReceiver ρ).request kind lengths (requestBlock i) p = (s.request kind lengths (requestBlock i) p).putReceiver ρ := by
  have hs' : (s.putReceiver ρ).host.receiver ≠ .idle := hρ
  by_cases hsending : s.host.sending.isSome
  · rw [State.request_overrun hs hsending, State.request_overrun hs' hsending]
    rfl
  · have hready : s.ready := ⟨hs, Option.not_isSome_iff_eq_none.mp hsending⟩
    have hready' : (s.putReceiver ρ).ready := ⟨hs', hready.2⟩
    by_cases hp : p.length ∈ lengths
    · rw [State.request_ready hready hp, State.request_ready hready' hp, requestBlock_putReceiver]
      generalize requestBlock i p s = a
      rfl
    · rw [State.request_badLength hready hp, State.request_badLength hready' hp]
      rfl

theorem hostUnknownKind_putReceiver (kind : Byte) (s : State) (ρ : Receiver) :
    hostUnknownKind kind (s.putReceiver ρ) = (hostUnknownKind kind s).putReceiver ρ := by
  unfold hostUnknownKind
  rw [apply_ite (State.putReceiver · ρ)]
  rfl

theorem State.takeFrame_putReceiver (f : Byte × List Byte) (hs : s.host.receiver ≠ .idle) (hρ : ρ ≠ .idle) :
    (s.putReceiver ρ).takeFrame f = (s.takeFrame f).putReceiver ρ := by
  unfold State.takeFrame
  cases hrow : requestTable.find? fun row => row.1 == f.1 with
  | none => exact hostUnknownKind_putReceiver f.1 s ρ
  | some row =>
    obtain ⟨i, lengths, -, hrequest⟩ := requestTable_row (List.mem_of_find?_eq_some hrow) f.2
    dsimp only
    rw [hrequest, hrequest, State.request_putReceiver i _ _ _ hs hρ]

theorem foldl_takeFrame_putReceiver (fs : List (Byte × List Byte)) (hs : s.host.receiver ≠ .idle) (hρ : ρ ≠ .idle) :
    fs.foldl State.takeFrame (s.putReceiver ρ) = (fs.foldl State.takeFrame s).putReceiver ρ := by
  induction fs generalizing s with
  | nil => rfl
  | cons f fs ih =>
    rw [List.foldl_cons, List.foldl_cons, State.takeFrame_putReceiver f hs hρ, ih (by rwa [State.takeFrame_receiver])]

end

/-! ## Hunting over one more byte -/

/-- Hunting over bytes with as much fuel as they need. -/
def huntAll (bytes : List Byte) : List (Byte × List Byte) × Receiver := hunt false bytes.length bytes

section
variable {b : Byte} {rest more payload : List Byte} {kind : Byte}

theorem scanFrame_good_length {bytes : List Byte} (h : scanFrame bytes = .good kind payload rest) : rest.length ≤ bytes.length := by
  unfold scanFrame at h
  dsimp only at h
  repeat' split at h
  · cases h
  · cases h
  · cases h
  · obtain ⟨-, -, rfl⟩ := FrameScan.good.inj h
    rw [List.length_drop]
    exact Nat.sub_le ..
  · cases h

/-- More fuel than the bytes need changes nothing. -/
theorem hunt_eq_huntAll {fuel : Nat} {bytes : List Byte} (h : bytes.length ≤ fuel) : hunt false fuel bytes = huntAll bytes := by
  induction fuel using Nat.strongRecOn generalizing bytes with
  | _ fuel ih =>
    cases bytes with
    | nil => exact hunt_nil false fuel
    | cons b rest =>
      obtain ⟨fuel, rfl⟩ : ∃ n, fuel = n + 1 := ⟨fuel - 1, by rw [List.length_cons] at h; omega⟩
      have hrest : rest.length ≤ fuel := Nat.le_of_succ_le_succ h
      have hsame : ∀ bs : List Byte, bs.length ≤ rest.length → hunt false fuel bs = hunt false rest.length bs := fun bs hbs =>
        (ih fuel (Nat.lt_succ_self _) (Nat.le_trans hbs hrest)).trans (ih rest.length (Nat.lt_succ_of_le hrest) hbs).symm
      show _ = hunt false (rest.length + 1) (b :: rest)
      by_cases hb : b = 0xA5#8
      · subst hb
        cases hscan : scanFrame rest with
        | incomplete => rw [hunt_collects hscan, hunt_collects hscan]
        | bad => rw [hunt_bad hscan, hunt_bad hscan, hsame rest (Nat.le_refl _)]
        | good kind payload more => rw [hunt_good hscan, hunt_good hscan, hsame more (scanFrame_good_length hscan)]
      · rw [hunt_drops hb, hunt_drops hb, hsame rest (Nat.le_refl _)]

theorem huntAll_drops (h : b ≠ 0xA5#8) : huntAll (b :: rest) = huntAll rest := hunt_drops h

theorem huntAll_collects (h : scanFrame rest = .incomplete) : huntAll (0xA5#8 :: rest) = ([], .collecting rest) := hunt_collects h

theorem huntAll_bad (h : scanFrame rest = .bad) : huntAll (0xA5#8 :: rest) = huntAll rest := hunt_bad h

theorem huntAll_good (h : scanFrame rest = .good kind payload more) :
    huntAll (0xA5#8 :: rest) = ((kind, payload) :: (huntAll more).1, (huntAll more).2) := by
  refine (hunt_good h).trans ?_
  rw [hunt_eq_huntAll (scanFrame_good_length h)]

/-- The byte that follows is hunted over with those that the receiver still holds. -/
theorem huntAll_append_singleton (bytes : List Byte) (b : Byte) :
    huntAll (bytes ++ [b]) =
      ((huntAll bytes).1 ++ (huntAll ((huntAll bytes).2.held ++ [b])).1, (huntAll ((huntAll bytes).2.held ++ [b])).2) := by
  induction hn : bytes.length using Nat.strongRecOn generalizing bytes with
  | _ n ih =>
    cases bytes with
    | nil => rfl
    | cons c rest =>
      have hlt : rest.length < n := hn ▸ Nat.lt_succ_self _
      rw [List.cons_append]
      by_cases hc : c = 0xA5#8
      · subst hc
        cases hscan : scanFrame rest with
        | incomplete => rw [huntAll_collects hscan]; rfl
        | bad => rw [huntAll_bad hscan, huntAll_bad (scanFrame_bad_append hscan _), ih _ hlt rest rfl]
        | good kind payload more =>
          rw [huntAll_good hscan, huntAll_good (scanFrame_good_append hscan _),
            ih _ (Nat.lt_of_le_of_lt (scanFrame_good_length hscan) hlt) more rfl]
          rfl
      · rw [huntAll_drops hc, huntAll_drops hc, ih _ hlt rest rfl]

theorem huntAll_receiver (bytes : List Byte) : (huntAll bytes).2 ≠ .idle := by
  induction hn : bytes.length using Nat.strongRecOn generalizing bytes with
  | _ n ih =>
    cases bytes with
    | nil => nofun
    | cons c rest =>
      have hlt : rest.length < n := hn ▸ Nat.lt_succ_self _
      by_cases hc : c = 0xA5#8
      · subst hc
        cases hscan : scanFrame rest with
        | incomplete => rw [huntAll_collects hscan]; nofun
        | bad => rw [huntAll_bad hscan]; exact ih _ hlt rest rfl
        | good kind payload more =>
          rw [huntAll_good hscan]
          exact ih _ (Nat.lt_of_le_of_lt (scanFrame_good_length hscan) hlt) more rfl
      · rw [huntAll_drops hc]
        exact ih _ hlt rest rfl

end

/-! ## Receiving one more byte -/

section
variable {s : State}

theorem State.receive_eq_huntAll (s : State) (bytes : List Byte) :
    s.receive false bytes = (huntAll bytes).1.foldl State.takeFrame (s.putReceiver (huntAll bytes).2) := rfl

/-- A byte that a receiver takes is hunted over with those that it holds. -/
theorem State.takeHostByte_eq (h : s.host.receiver ≠ .idle) (b : Byte) :
    s.takeHostByte b = s.receive false (s.host.receiver.held ++ [b]) := by
  unfold State.takeHostByte
  cases hreceiver : s.host.receiver with
  | idle => exact absurd hreceiver h
  | _ => rfl

/-- A byte that arrives after others is hunted over as one of them. -/
theorem State.receive_takeHostByte (s : State) (bytes : List Byte) (b : Byte) :
    (s.receive false bytes).takeHostByte b = s.receive false (bytes ++ [b]) := by
  have hreceiver : (s.receive false bytes).host.receiver = (huntAll bytes).2 := s.receive_receiver false bytes
  have hnext := foldl_takeFrame_putReceiver (s := s.putReceiver (huntAll bytes).2) (huntAll bytes).1 (huntAll_receiver bytes)
    (huntAll_receiver ((huntAll bytes).2.held ++ [b]))
  rw [State.takeHostByte_eq (hreceiver ▸ huntAll_receiver bytes), hreceiver, State.receive_eq_huntAll _ (_ ++ [b]),
    State.receive_eq_huntAll s bytes, ← hnext, ← List.foldl_append, State.receive_eq_huntAll s (bytes ++ [b]),
    huntAll_append_singleton bytes b]
  rfl

theorem State.receive_foldl_takeHostByte (s : State) (bytes more : List Byte) :
    more.foldl State.takeHostByte (s.receive false bytes) = s.receive false (bytes ++ more) := by
  induction more generalizing bytes with
  | nil => rw [List.append_nil, List.foldl_nil]
  | cons b more ih => rw [List.foldl_cons, State.receive_takeHostByte, ih, List.append_assoc, List.singleton_append]

/-- The bytes that arrive one by one are hunted over as all of them at once. -/
theorem State.foldl_takeHostByte (s : State) (bytes : List Byte) :
    bytes.foldl State.takeHostByte (s.putReceiver .hunting) = s.receive false bytes :=
  s.receive_foldl_takeHostByte [] bytes

end

/-- Settles O10: a bad frame is hunted over from the byte after its start byte, all its bytes at once. -/
theorem badFrameIsExaminedAgain : Obligations.BadFrameIsExaminedAgain := by
  intro bytes b s hreceiver hbad
  have htaken : s.takeHostByte b = s.receive false (bytes ++ [b]) := by
    rw [State.takeHostByte_collecting hreceiver, State.receive_eq_huntAll, State.receive_eq_huntAll, huntAll_bad hbad]
  exact congrArg Host.Outcome.next (htaken.trans (s.foldl_takeHostByte (bytes ++ [b])).symm)

end Sys2Proof.Machine
end
